-- ==== Sys2Proof/Word.lean ====
section
/-! DEFINITION. The widths of the values that the spec moves about (R8, R17, R47). -/

namespace Sys2Proof

/-- A word: a 32-bit unsigned value, bit 0 the least significant (R8). -/
abbrev Word := BitVec 32

/-- The opcode field `CW[39:32]` of a command word (R47). -/
abbrev Opcode := BitVec 8

/-- One command word `CW`, 40 bits (R47, R48). -/
abbrev CommandWord := BitVec 40

/-- The width of the cursor register `idx` (R7 `IDX_WIDTH`, R17). -/
abbrev Cursor := BitVec 10

end Sys2Proof
end

