-- ==== Sys2Proof/Syntax.lean ====
section
/-! DEFINITION. The commands of the core (R47 to R51, R54), and the mnemonics of spec/opcode_table.json. -/

namespace Sys2Proof

/-- The mnemonics of spec/opcode_table.json, as the table spells them (R49, R55). -/
inductive Mnemonic where
  | SEED
  | EXTRACT
  | EXTRACT8
  | STATUS
  | ILLEGAL
deriving DecidableEq, Repr

/-- One command. The five constructors are the five arms of the dispatch of R54. The eight `ILLEGAL` rows of the
table are one command, cut into blocks only "so that each row is one match and mask" (R50), and `illegal` holds the
opcode that says which block a word lies in. The data field that a command ignores (R50) is kept, so that a
command stands for exactly one 40-bit word and a disassembler can print that word back (R58). -/
inductive Instr where
  /-- `SEED v`: `v` is `CW[31:0]`, used whole as an unsigned word (R47, R64). -/
  | seed (v : Word)
  /-- `EXTRACT`, with its ignored data field (R50, R76). -/
  | extract (ignored : Word)
  /-- `EXTRACT8`, with its ignored data field (R50, R77). -/
  | extract8 (ignored : Word)
  /-- `STATUS`, with its ignored data field (R50, R82). -/
  | status (ignored : Word)
  /-- Any command whose opcode is not in R49's table, with that opcode and its ignored data field (R50, R55). -/
  | illegal (op : Opcode) (ignored : Word)
deriving DecidableEq, Repr

/-- The row name that a command has in spec/opcode_table.json. -/
def Instr.mnemonic : Instr → Mnemonic
  | .seed _ => .SEED
  | .extract _ => .EXTRACT
  | .extract8 _ => .EXTRACT8
  | .status _ => .STATUS
  | .illegal _ _ => .ILLEGAL

end Sys2Proof
end

