-- ==== Sys2Proof/WellFormed.lean ====
section
/-! DEFINITION. Which terms of `Instr` stand for a command word. -/

namespace Sys2Proof

/-- The opcodes that R49 assigns to a command: `0x01` to `0x04`. All others, `0x00` included, are illegal. -/
def assignedOpcode (op : Opcode) : Bool :=
  op == 0x01#8 || op == 0x02#8 || op == 0x03#8 || op == 0x04#8

/-- A term is well formed when some command word decodes to it. The one check: `illegal` carries an opcode that R49
does not assign (R55, "any `op` in 0x00 and 0x05 to 0xFF"). Every other field admits every value (R47, R50). -/
def Instr.wellFormed : Instr → Bool
  | .seed _ => true
  | .extract _ => true
  | .extract8 _ => true
  | .status _ => true
  | .illegal op _ => !assignedOpcode op

end Sys2Proof
end

