-- ==== Sys2Proof/Decode.lean ====
section
/-! DEFINITION. The command word's fields, the decoder, the encoder, and spec/opcode_table.json as a list of rows
(R47 to R50, R54). The decoder is total and rejects nothing: a word with an unassigned opcode is the command
`illegal`, which has a defined response (R54, R55, D5). -/

namespace Sys2Proof

/-- `op = CW[39:32]` (R47). -/
def CommandWord.op (cw : CommandWord) : Opcode := cw.extractLsb' 32 8

/-- `data = CW[31:0]` (R47). -/
def CommandWord.data (cw : CommandWord) : Word := cw.extractLsb' 0 32

/-- `CW = op * 2^32 + data` (R47). -/
def commandWord (op : Opcode) (data : Word) : CommandWord := op ++ data

/-- The command that an opcode and a data field select (R49, R54). -/
def decodeFields (op : Opcode) (data : Word) : Instr :=
  if op = 0x01#8 then .seed data
  else if op = 0x02#8 then .extract data
  else if op = 0x03#8 then .extract8 data
  else if op = 0x04#8 then .status data
  else .illegal op data

/-- The decoder: the command of a command word. It needs only `op` to know the command (R48, R54). -/
def decode (cw : CommandWord) : Instr := decodeFields cw.op cw.data

/-- The opcode of a command (R49, R55). -/
def Instr.opcode : Instr → Opcode
  | .seed _ => 0x01#8
  | .extract _ => 0x02#8
  | .extract8 _ => 0x03#8
  | .status _ => 0x04#8
  | .illegal op _ => op

/-- The data field of a command (R47). -/
def Instr.dataField : Instr → Word
  | .seed v => v
  | .extract d => d
  | .extract8 d => d
  | .status d => d
  | .illegal _ d => d

/-- The encoder: the command word of a command (R47, R49, R56). -/
def encode (i : Instr) : CommandWord := commandWord i.opcode i.dataField

/-- One row of spec/opcode_table.json: a word belongs to it when the bits of `mask` read as `pattern`. -/
structure OpcodeRow where
  mnemonic : Mnemonic
  pattern  : CommandWord
  mask     : CommandWord
deriving DecidableEq, Repr

/-- Does a command word belong to a row (R50: "each row is one match and mask")? -/
def OpcodeRow.selects (r : OpcodeRow) (cw : CommandWord) : Bool := cw &&& r.mask == r.pattern

/-- The rows of the four assigned opcodes, from spec/opcode_table.json (R49). -/
def assignedRows : List OpcodeRow :=
  [⟨.SEED, 0x0100000000#40, 0xFF00000000#40⟩,
   ⟨.EXTRACT, 0x0200000000#40, 0xFF00000000#40⟩,
   ⟨.EXTRACT8, 0x0300000000#40, 0xFF00000000#40⟩,
   ⟨.STATUS, 0x0400000000#40, 0xFF00000000#40⟩]

/-- The rows of the illegal opcodes, from spec/opcode_table.json: 0x00, 0x05, 0x06..0x07, 0x08..0x0F, 0x10..0x1F,
0x20..0x3F, 0x40..0x7F, 0x80..0xFF (R49, R50, R55). -/
def illegalRows : List OpcodeRow :=
  [⟨.ILLEGAL, 0x0000000000#40, 0xFF00000000#40⟩,
   ⟨.ILLEGAL, 0x0500000000#40, 0xFF00000000#40⟩,
   ⟨.ILLEGAL, 0x0600000000#40, 0xFE00000000#40⟩,
   ⟨.ILLEGAL, 0x0800000000#40, 0xF800000000#40⟩,
   ⟨.ILLEGAL, 0x1000000000#40, 0xF000000000#40⟩,
   ⟨.ILLEGAL, 0x2000000000#40, 0xE000000000#40⟩,
   ⟨.ILLEGAL, 0x4000000000#40, 0xC000000000#40⟩,
   ⟨.ILLEGAL, 0x8000000000#40, 0x8000000000#40⟩]

/-- spec/opcode_table.json, row by row, in its order. -/
def opcodeTable : List OpcodeRow := assignedRows ++ illegalRows

/-- The host's way in: the command that the decoder reads from a table word of `nbits` bits, numbered as the table
numbers them, which is how `CW` is numbered: bit 0 is the least significant bit of the one 40-bit word. Bits above
`nbits` are 0. It answers none only where no such word exists (more than 40 bits, or a value that needs more than
`nbits`): every command is exactly 40 bits (R48). -/
def decodeTableWord (nbits w : Nat) : Option Instr :=
  if nbits ≤ 40 ∧ w < 2 ^ nbits then some (decode (BitVec.ofNat 40 w)) else none

end Sys2Proof
end

