-- ==== Sys2Proof/Config.lean ====
section
/-! DEFINITION. What the spec leaves to the implementation or leaves unspecified. Each is an opaque constant with
no body: nothing can be proved of its value, so whatever is proved of the model holds for every value. Where several
cores stand side by side, all of them read the same constants: DESIGN CHOICE, log entry 14. -/

namespace Sys2Proof

/-- The four latency parameters of R7 and R110, by name: `LAT_SEED`, `LAT_EXTRACT` (an extraction that does not
twist), `LAT_TWIST_EXTRACT` (one that does), `LAT_OTHER` (`STATUS` and illegal commands). -/
inductive LatencyClass where
  | seed
  | extract
  | twistExtract
  | other
deriving DecidableEq, Repr

/-- How many cycles MORE than the one that R110 requires a command takes from its acceptance to its response.
OPEN in the spec (R7, R110, D18, U3). It may vary with the cursor, as an implementation that twists lazily does
(R110, R27). Log entry 3. -/
opaque Config.extraLatency : LatencyClass → Cursor → Nat

/-- Cycles from the acceptance of a command to its response: `LAT_SEED`, `LAT_EXTRACT`, `LAT_TWIST_EXTRACT` or
`LAT_OTHER`, each finite and at least 1 (R110, U3). -/
def Config.latency (c : LatencyClass) (idx : Cursor) : Nat := Config.extraLatency c idx + 1

/-- The content of `MT` after a reset: unspecified, each word any value (R26, R101, D17, U1). The argument is the
model's counter of free values, so two resets need not leave the same words. Log entry 2. -/
opaque Config.resetContents : Nat → Vector Word 624

/-- What `rsp_status` carries while no response is presented: unspecified (R108, D30, U4). Log entry 4. Two cores
with the same counter carry the same value, which the spec does not say: DESIGN CHOICE, log entry 14. -/
opaque Config.idleStatus : Nat → BitVec 2

/-- What `rsp_data` carries while no response is presented: unspecified (R108, D30, U4). Log entry 4. As for
`Config.idleStatus`, two cores with the same counter carry the same value: DESIGN CHOICE, log entry 14. -/
opaque Config.idleData : Nat → Word

end Sys2Proof
end

