-- ==== Sys2Proof/Machine/Parameters.lean ====
section
/-! DEFINITION. The constants of R6 and R7, each under the spec's name. The sizes `N` = 624 and `M` = 397 stand as
numerals in the types and loops, where the kernel and the arithmetic tactics read them. -/

namespace Sys2Proof.Machine

/-- `LOWER_MASK` = 2^31 - 1 (R6). -/
def lowerMask : Word := 0x7FFFFFFF#32

/-- `UPPER_MASK`, the complement of `LOWER_MASK` within 32 bits (R6). -/
def upperMask : Word := 0x80000000#32

/-- `A`, the twist magic constant (R6). -/
def twistConstant : Word := 0x9908B0DF#32

/-- `F`, the multiplier of the initialisation recurrence (R6). -/
def initMultiplier : Nat := 1812433253

/-- `B`, the mask of the second tempering step (R6). -/
def temperMaskB : Word := 0x9D2C5680#32

/-- `C`, the mask of the third tempering step (R6). -/
def temperMaskC : Word := 0xEFC60000#32

/-- `UNSEEDED` = `N + 1` = 625, the cursor value of a core that no `SEED` has reached since reset (R6, R17, R18). -/
def unseeded : Cursor := 625#10

/-- `SEEDED_IDX` = 624, the cursor value that `SEED` writes (R7, R61, D10). -/
def seededIdx : Cursor := 624#10

/-- The two values of `TWIST_THRESHOLD` that the spec names (R7, R80, U7): this hardware's 624 (`textbook`), and the
reference software's early twist at 623 (`reference`). -/
inductive TwistThreshold where
  | textbook
  | reference
deriving DecidableEq, Repr

/-- The cursor value from which an extraction twists first (R7, R80). -/
def TwistThreshold.value : TwistThreshold → Nat
  | .textbook => 624
  | .reference => 623

/-- A cursor below either threshold is a position of the state vector (R31). -/
theorem TwistThreshold.lt_of_lt_value {n : Nat} {t : TwistThreshold} (h : n < t.value) : n < 624 := by
  cases t <;> simp only [value] at h <;> omega

/-- This hardware's threshold: 624 (R7, R80, D9). -/
def hardwareThreshold : TwistThreshold := .textbook

end Sys2Proof.Machine
end

