-- ==== Sys2Proof/Machine/State.lean ====
section
/-! DEFINITION. The state of the machine, as plain data: the generator (`MT` and `idx`, the two pieces of
architectural state of 10_state.md), the port's transaction in progress (R101, R107, R108), what the host drives on
the input pins (R46), and the model's own counter of free values. -/

namespace Sys2Proof.Machine

/-- `MT`: exactly 624 words, none hardwired, none an alias of another (R15). -/
abbrev StateVector := Vector Word 624

/-- The architectural state of the core: all that persists from one command to the next (R15, R17). -/
structure Generator where
  /-- The state vector `MT[0]` to `MT[623]` (R15). -/
  mt  : StateVector
  /-- The cursor `idx` (R17). -/
  idx : Cursor
deriving DecidableEq, Repr

/-- The response status (R52). The fourth code, `0b11`, is never produced, so it has no constructor. -/
inductive Status where
  | ok
  | invalidState
  | illegalCommand
deriving DecidableEq, Repr

/-- A response: a status and 32 bits of data (R12, R52). -/
structure Response where
  status : Status
  data   : Word
deriving DecidableEq, Repr

/-- Where the port's one transaction stands (R101, R107, R108, R110). -/
inductive Phase where
  /-- No command in hand and no response pending (R102). -/
  | idle
  /-- A command has been accepted and its response `r` is not presented yet. `left` more edges pass before the edge
  after which it is (R110). -/
  | busy (left : Nat) (r : Response)
  /-- `rsp_valid = 1`, with this response, until the host takes it (R108). -/
  | presenting (r : Response)
deriving DecidableEq, Repr

/-- What the host drives on the core's input pins as one rising edge of `clk` samples them (R46). -/
structure PortIn where
  rst      : Bool
  cmdValid : Bool
  cmdOp    : Opcode
  cmdData  : Word
  rspReady : Bool
deriving DecidableEq, Repr

/-- The core's output pins during one cycle (R46). -/
structure PortOut where
  cmdReady  : Bool
  rspValid  : Bool
  rspStatus : BitVec 2
  rspData   : Word
deriving DecidableEq, Repr

/-- Why the machine could stop with a fault. There is no reason, so no constructor: the spec defines every command in
every state (R54, R75), no rule indexes `MT` out of range (R31), and every error is a response, not a stop (R86, R91). -/
inductive Fault where
deriving DecidableEq, Repr

/-- Why the model could answer a command with no meaning. -/
inductive Refusal where
  /-- Raised by an arm of `exec` whose command has no meaning yet; no arm does. Safe: the model stops where the
  hardware goes on. -/
  | notModelled (mnemonic : String)
deriving DecidableEq, Repr

/-- The whole state. -/
structure State where
  /-- `MT` and `idx` (R15, R17). -/
  gen       : Generator
  /-- The transaction in progress at the port (R101, R107, R108). -/
  phase     : Phase
  /-- What the host will drive at the coming rising edges, the next one first (R20, R46). Log entry 5. -/
  inputs    : List PortIn
  /-- The model's own counter, no register of the core (R96): how many edges have passed. A free value of `Config`
  is read at it. Log entry 2. -/
  freeIndex : Nat
deriving DecidableEq, Repr

/-- The state after reset: `idx` is `UNSEEDED` (R25, R101), the port is idle (R102), and the host drives nothing yet.
`MT` is unspecified there (R26); 93_implementation_defined.md U1 lets a model fix it to zero, and this one does.
DESIGN CHOICE, log entry 1. -/
def State.reset : State :=
  { gen := { mt := Vector.replicate 624 0#32, idx := unseeded }
    phase := .idle
    inputs := []
    freeIndex := 0 }

end Sys2Proof.Machine
end

