-- ==== Sys2Proof/Machine/Operands.lean ====
section
/-! DEFINITION. The widths that each command moves (R36). There is no operand form but the data field of the command
word (R19, R47), no address (R30, R84) and no alignment (R36). -/

namespace Sys2Proof.Machine

/-- The operand of `SEED`: `CW[31:0]` whole, neither extended, scaled, shifted nor masked (R47, R60, R63). -/
def seedOperand (data : Word) : Word := data

/-- `zext_32(y[7:0])`: bits 7 to 0 of a tempered word, with bits 31 to 8 zero (R35, R77). -/
def lowByte (y : Word) : Word := (y.extractLsb' 0 8).setWidth 32

/-- `zext_32(idx)`: the cursor in bits 9 to 0, with bits 31 to 10 zero (R36, R82). -/
def cursorData (idx : Cursor) : Word := idx.setWidth 32

end Sys2Proof.Machine
end

