-- ==== Sys2Proof/Machine/Ops.lean ====
section
/-! DEFINITION. The operations that the commands share: the initialisation recurrence (R59, R64), the twist (R65,
R66), tempering (R73), `NEXT` (R75), and the completion of a command (R12). A loop `for i in 0..n` of the spec (R10)
is `Nat.fold n`, which runs its body at 0, 1, ..., n - 1 and hands each turn what the one before it wrote. The two loops
are irreducible, so that no tactic unrolls their 624 turns unasked. -/

namespace Sys2Proof.Machine

/-- `init_word(prev, i)`: an exact product and sum, then the low 32 bits (R59). -/
def initWord (prev : Word) (i : Nat) : Word :=
  BitVec.ofNat 32 (initMultiplier * (prev ^^^ (prev >>> 30)).toNat + i)

/-- `MT` after the first `k` turns of the loop of `SEED v`: `MT[0] <- v`, then for `i` in `1..k+1`
`MT[i] <- init_word(MT[i-1], i)`, reading the word just written (R64). Turn `i` of the fold writes `MT[i+1]`. -/
@[irreducible] def seedTurns (v : Word) (mt : StateVector) (k : Nat) (hk : k ≤ 623) : StateVector :=
  Nat.fold k (fun i (h : i < k) (mt : StateVector) => mt.set (i + 1) (initWord mt[i] (i + 1))) (mt.set 0 v)

/-- The whole loop of `SEED v` over `MT`: all 624 words are written (R64). -/
def seedVector (v : Word) (mt : StateVector) : StateVector := seedTurns v mt 623 (Nat.le_refl 623)

/-- `twist_word(cur, nxt, far)`. The constant goes in when bit 0 of `x` is 1 (R65, R67, conflict C2). -/
def twistWord (cur nxt far : Word) : Word :=
  let x := (cur &&& upperMask) ||| (nxt &&& lowerMask)
  let xA := x >>> 1
  far ^^^ (if x.getLsbD 0 then xA ^^^ twistConstant else xA)

/-- One turn of the loop of `TWIST()`: `MT[i] <- twist_word(MT[i], MT[(i+1) mod 624], MT[(i+397) mod 624])` (R66). -/
def twistTurn (i : Nat) (hi : i < 624) (mt : StateVector) : StateVector :=
  mt.set i (twistWord mt[i]
    (mt[(i + 1) % 624]'(Nat.mod_lt _ (by decide)))
    (mt[(i + 397) % 624]'(Nat.mod_lt _ (by decide))))

/-- `MT` after the first `k` turns of the loop of `TWIST()`, in place: each read sees every write of the turns before
it (R66, R68). -/
@[irreducible] def twistTurns (mt : StateVector) (k : Nat) (hk : k ≤ 624) : StateVector :=
  Nat.fold k (fun i (h : i < k) => twistTurn i (Nat.lt_of_lt_of_le h hk)) mt

/-- The whole loop of `TWIST()` over `MT` (R66). -/
def twistVector (mt : StateVector) : StateVector := twistTurns mt 624 (Nat.le_refl 624)

/-- `TWIST()`: the loop, then `idx <- 0` (R66). No command invokes it (R51, R70). -/
def twist (g : Generator) : Generator := { mt := twistVector g.mt, idx := 0#10 }

/-- `temper(y)`. Each line reads the value the line before it wrote (R73). -/
def temper (y : Word) : Word :=
  let y := y ^^^ (y >>> 11)
  let y := y ^^^ ((y <<< 7) &&& temperMaskB)
  let y := y ^^^ ((y <<< 15) &&& temperMaskC)
  y ^^^ (y >>> 18)

/-- The last lines of `NEXT()`: the tempered word at the cursor, which then moves on (R75). -/
def takeWord (g : Generator) (h : g.idx.toNat < 624) : Generator × Word :=
  ({ g with idx := g.idx + 1#10 }, temper g.mt[g.idx.toNat])

/-- `NEXT()` with a given twist threshold: none is `raise InvalidState()` (R75, R80). The cursor values 626 to 1023,
which no run reaches, twist as 624 does (R24, conflict C7, U6). -/
def next (t : TwistThreshold) (g : Generator) : Option (Generator × Word) :=
  if h : g.idx.toNat < t.value then some (takeWord g (TwistThreshold.lt_of_lt_value h))
  else if g.idx = unseeded then none
  else some (takeWord (twist g) (by simp [twist]))

/-- Does an extraction run the twist (R70: `idx >= TWIST_THRESHOLD` and `idx != UNSEEDED`)? -/
def extractionTwists (g : Generator) : Bool :=
  decide (hardwareThreshold.value ≤ g.idx.toNat) && g.idx != unseeded

/-- The latency parameter of an extraction: `LAT_TWIST_EXTRACT` when it twists, else `LAT_EXTRACT` (R110), also
when it fails (DEDUCED, log entry 3). -/
def extractionLatency (g : Generator) : LatencyClass :=
  if extractionTwists g then .twistExtract else .extract

/-- `respond(OK, d)` of a command that leaves the generator as `g` (R12). -/
def respondOk (g : Generator) (d : Word) : Generator × Response := (g, { status := .ok, data := d })

/-- `raise InvalidState()`: `respond(INVALID_STATE, 0)` with no write to any state. This is all that the core has of
taking an exception: it saves nothing, changes no mode and goes nowhere, and there is no return (R12, R87, R91, R92). -/
def raiseInvalidState (g : Generator) : Generator × Response := (g, { status := .invalidState, data := 0#32 })

/-- `respond(ILLEGAL_COMMAND, 0)` with no write to any state (R55, R88). -/
def raiseIllegalCommand (g : Generator) : Generator × Response := (g, { status := .illegalCommand, data := 0#32 })

/-- Completes a command at the edge that accepts it: the generator is what the command made of it (R37, R112; that it is
so at this very edge is DEDUCED, log entry 9), and the one response (R12) is on its way, to be presented after the command's latency (R110). -/
def State.complete (s : State) (c : LatencyClass) (r : Generator × Response) :
    Host.Outcome State Fault Refusal :=
  .next { s with gen := r.1, phase := .busy (Config.extraLatency c s.gen.idx) r.2 }

end Sys2Proof.Machine
end

