-- ==== Sys2Proof/Machine/Extract.lean ====
section
/-! DEFINITION. The commands `EXTRACT` and `EXTRACT8` (42_extract.md). -/

namespace Sys2Proof.Machine

/-- `EXTRACT` on the generator: the next tempered word, or `INVALID_STATE` (R75, R76). -/
def commandExtract (g : Generator) : Generator × Response :=
  match next hardwareThreshold g with
  | some (g', y) => respondOk g' y
  | none => raiseInvalidState g

/-- `EXTRACT8` on the generator: the low byte of the next tempered word, or `INVALID_STATE` (R75, R77). -/
def commandExtract8 (g : Generator) : Generator × Response :=
  match next hardwareThreshold g with
  | some (g', y) => respondOk g' (lowByte y)
  | none => raiseInvalidState g

/-- `EXTRACT` (R76). -/
def execExtract (s : State) : Host.Outcome State Fault Refusal :=
  s.complete (extractionLatency s.gen) (commandExtract s.gen)

/-- `EXTRACT8` (R77). -/
def execExtract8 (s : State) : Host.Outcome State Fault Refusal :=
  s.complete (extractionLatency s.gen) (commandExtract8 s.gen)

end Sys2Proof.Machine
end

