-- ==== Sys2Proof/Machine/Query.lean ====
section
/-! DEFINITION. The command `STATUS` (43_status.md) and the answer to every other opcode (R55). -/

namespace Sys2Proof.Machine

/-- `STATUS` on the generator: the cursor, zero-extended, and no write (R82). -/
def commandStatus (g : Generator) : Generator × Response := respondOk g (cursorData g.idx)

/-- `ILLEGAL` on the generator: `(ILLEGAL_COMMAND, 0)` and no write (R55, R88). -/
def commandIllegal (g : Generator) : Generator × Response := raiseIllegalCommand g

/-- `STATUS` (R82). -/
def execStatus (s : State) : Host.Outcome State Fault Refusal :=
  s.complete .other (commandStatus s.gen)

/-- `ILLEGAL` (R55). -/
def execIllegal (s : State) : Host.Outcome State Fault Refusal :=
  s.complete .other (commandIllegal s.gen)

end Sys2Proof.Machine
end

