-- ==== Sys2Proof/Machine/Seed.lean ====
section
/-! DEFINITION. The command `SEED` (40_seed.md). -/

namespace Sys2Proof.Machine

/-- `SEED v` on the generator: every word of `MT` and the cursor are written, and it answers `(OK, 0)`. It never
fails (R62, R64). -/
def commandSeed (v : Word) (g : Generator) : Generator × Response :=
  respondOk { mt := seedVector (seedOperand v) g.mt, idx := seededIdx } 0#32

/-- `SEED v` (R64). -/
def execSeed (v : Word) (s : State) : Host.Outcome State Fault Refusal :=
  s.complete .seed (commandSeed v s.gen)

end Sys2Proof.Machine
end

