-- ==== Sys2Proof/Machine/Dispatch.lean ====
section
/-! DEFINITION. The dispatch of R54: one arm per command. The ignored data fields are dropped here (R50). -/

namespace Sys2Proof.Machine

def exec (i : Instr) (s : State) : Host.Outcome State Fault Refusal :=
  match i with
  | .seed v => Sys2Proof.Machine.execSeed v s
  | .extract _ => Sys2Proof.Machine.execExtract s
  | .extract8 _ => Sys2Proof.Machine.execExtract8 s
  | .status _ => Sys2Proof.Machine.execStatus s
  | .illegal _ _ => Sys2Proof.Machine.execIllegal s

end Sys2Proof.Machine
end

