-- ==== Sys2Proof/Machine/Flags.lean ====
section
/-! DEFINITION. The core has no flags and no condition codes (R21). What a command reports instead is the status
code of its own response (R52). -/

namespace Sys2Proof.Machine

/-- The code on `rsp_status` (R52). -/
def Status.code : Status → BitVec 2
  | .ok => 0b00#2
  | .invalidState => 0b01#2
  | .illegalCommand => 0b10#2

/-- What a host reads from a code on `rsp_status`. `0b11` is no status: "A host that receives `0b11` has seen a
malfunction" (R52, U5). -/
def Status.ofCode? (c : BitVec 2) : Option Status :=
  if c = 0b00#2 then some .ok
  else if c = 0b01#2 then some .invalidState
  else if c = 0b10#2 then some .illegalCommand
  else none

end Sys2Proof.Machine
end

