-- ==== Sys2Proof/Machine/Port.lean ====
section
/-! DEFINITION. The port: what the pins carry, and what a rising edge of `clk` does beside running a command (R46,
R101, R102, R106 to R110). -/

namespace Sys2Proof.Machine

/-- The pins of a host that does nothing: no reset, no command, no response taken. It stands for the edges after the
last one listed in `inputs`. DESIGN CHOICE, log entry 5. -/
def PortIn.quiet : PortIn :=
  { rst := false, cmdValid := false, cmdOp := 0#8, cmdData := 0#32, rspReady := false }

/-- The pins of a host that presents a command word (R46, R47). -/
def PortIn.command (cw : CommandWord) : PortIn :=
  { rst := false, cmdValid := true, cmdOp := cw.op, cmdData := cw.data, rspReady := false }

/-- The command word on the pins: `cmd_op` is `CW[39:32]` and `cmd_data` is `CW[31:0]` (R46, R106). -/
def PortIn.word (p : PortIn) : CommandWord := commandWord p.cmdOp p.cmdData

/-- The pins that the next rising edge samples. -/
def State.pins (s : State) : PortIn := s.inputs.headD PortIn.quiet

/-- The state with this edge's pins used up: what every edge does, whatever else it does. -/
def State.sampled (s : State) : State :=
  { s with inputs := s.inputs.tail, freeIndex := s.freeIndex + 1 }

/-- The core can accept a command: it is idle and not held in reset (R101, R102, R107). An idle core holds
`cmd_ready = 1`, as R107 allows. DESIGN CHOICE, log entry 6. -/
def State.cmdReady (s : State) : Bool := s.phase == .idle && !s.pins.rst

/-- The response that the core presents in this cycle, if any: `rsp_valid = 1`. In reset there is none (R101, R108). -/
def State.presented (s : State) : Option Response :=
  match s.phase with
  | .idle => none
  | .busy _ _ => none
  | .presenting r => if s.pins.rst then none else some r

/-- The response that is in flight, accepted but not taken yet: at most one (R107). -/
def Phase.response? : Phase → Option Response
  | .idle => none
  | .busy _ r => some r
  | .presenting r => some r

/-- The output pins in the cycle before the next rising edge (R46). Where no response is presented, `rsp_status` and
`rsp_data` are free values (R108, U4), the same in any two cores with the same `freeIndex` (DESIGN CHOICE, log entries 4
and 14). -/
def State.outputs (s : State) : PortOut :=
  match s.presented with
  | some r => { cmdReady := s.cmdReady, rspValid := true, rspStatus := r.status.code, rspData := r.data }
  | none =>
    { cmdReady := s.cmdReady
      rspValid := false
      rspStatus := Config.idleStatus s.freeIndex
      rspData := Config.idleData s.freeIndex }

/-- Does the next rising edge accept a command (R106: `rst = 0`, `cmd_valid = 1` and `cmd_ready = 1`)? -/
def State.accepts (s : State) : Bool := s.cmdReady && s.pins.cmdValid

/-- What a rising edge with `rst = 1` does (R101): `idx <- UNSEEDED`, `MT` unspecified, and a command in flight and a
response not taken are dropped. -/
def State.resetEdge (s : State) : State :=
  { s with
    gen := { mt := Config.resetContents s.freeIndex, idx := unseeded }
    phase := .idle }

/-- What a rising edge with `rst = 0` that accepts no command does to the port: an idle core stays idle (R99), a
command's response comes one edge nearer (R110), and a presented response is held until it is taken (R108). -/
def Phase.advance (ready : Bool) : Phase → Phase
  | .idle => .idle
  | .busy 0 r => .presenting r
  | .busy (n + 1) r => .busy n r
  | .presenting r => if ready then .idle else .presenting r

/-- An edge with `rst = 0` that accepts no command. `MT` and `idx` are held: by R99 while the core is
idle, and while a command is in flight because its writes are done (DEDUCED, log entry 9). -/
def State.waitEdge (s : State) (p : PortIn) : State := { s with phase := s.phase.advance p.rspReady }

/-- The state in which the host presents a command word to an idle core at the next edge. Nothing else changes: what
the host was to drive comes after it. -/
def State.presentCommand (s : State) (cw : CommandWord) : State :=
  { s with phase := .idle, inputs := PortIn.command cw :: s.inputs }

end Sys2Proof.Machine
end

