-- ==== Sys2Proof/Machine/Step.lean ====
section
/-! DEFINITION. One step of the machine: one rising edge of `clk` (R46). The edge that accepts a command runs the whole
command, atomically (R37, R45, R106, R112; DEDUCED, log entry 9); every other edge only moves the port on. -/

namespace Sys2Proof.Machine

/-- One rising edge of `clk`. -/
def step (s : State) : Host.Outcome State Fault Refusal :=
  if s.pins.rst then .next s.sampled.resetEdge
  else if s.accepts then exec (decode s.pins.word) s.sampled
  else .next (s.sampled.waitEdge s.pins)

/-- `s` with the host presenting, at the very next edge, the command word whose low `nbits` bits are those of `w` and
whose other bits are 0, to an idle core: the core fetches nothing (R20), commands are pushed to it. Log entry 7. -/
def State.withFetchWord (s : State) (nbits w : Nat) : State :=
  s.presentCommand (BitVec.ofNat 40 (w % 2 ^ nbits))

end Sys2Proof.Machine
end

