-- ==== Sys2Proof/Machine/Assembler.lean ====
section
/-! DEFINITION. The assembler and the disassembler (R56, R57, R58), host-side tools of the spec. Texts are lists of
characters. -/

namespace Sys2Proof.Machine

/-- A command or pseudo-instruction of a program, with its literal as the unbounded number that was written (R56,
R57). -/
inductive AsmLine where
  | seed (v : Nat)
  | extract
  | extract8
  | status
  /-- `.cw <w>`, a raw command word. -/
  | cw (w : Nat)
  | seedw (v : Nat)
  | kseed (v : Nat)
  | kbyte
  | pull (n : Nat)
  | pull8 (n : Nat)
deriving DecidableEq, Repr

/-- Why the assembler refuses a line. -/
inductive AsmError where
  /-- A `SEED` operand at or above 2^32 (R56), or a `.cw` operand at or above 2^40, for which R56 gives no word
  (DESIGN CHOICE, log entry 8). -/
  | operandTooWide
  /-- The operand is no numeric literal (R56). -/
  | badLiteral
  /-- The line is none of the forms of R56 and R57. -/
  | badForm
deriving DecidableEq, Repr

/-- The command words that a line stands for. `SEED` refuses a wide operand and never truncates it; `SEEDW` and
`KSEED` do the truncation of R57. R57 bounds the `n` of `PULL` and `PULL8` nowhere: here it is any number, and 0 gives
no command (DESIGN CHOICE, log entry 8). -/
def AsmLine.expand : AsmLine → Except AsmError (List CommandWord)
  | .seed v => if v < 2 ^ 32 then .ok [encode (.seed (BitVec.ofNat 32 v))] else .error .operandTooWide
  | .extract => .ok [encode (.extract 0#32)]
  | .extract8 => .ok [encode (.extract8 0#32)]
  | .status => .ok [encode (.status 0#32)]
  | .cw w => if w < 2 ^ 40 then .ok [BitVec.ofNat 40 w] else .error .operandTooWide
  | .seedw v => .ok [encode (.seed (BitVec.ofNat 32 (v % 2 ^ 32)))]
  | .kseed v => .ok [encode (.seed (BitVec.ofNat 32 (v &&& 0xFFFF)))]
  | .kbyte => .ok [encode (.extract8 0#32)]
  | .pull n => .ok (List.replicate n (encode (.extract 0#32)))
  | .pull8 n => .ok (List.replicate n (encode (.extract8 0#32)))

/-- The value of a digit, decimal or hexadecimal. The letters may be of either case (DESIGN CHOICE,
log entry 8). -/
def digitValue (c : Char) : Option Nat :=
  if '0'.toNat ≤ c.toNat ∧ c.toNat ≤ '9'.toNat then some (c.toNat - '0'.toNat)
  else if 'A'.toNat ≤ c.toNat ∧ c.toNat ≤ 'F'.toNat then some (c.toNat - 'A'.toNat + 10)
  else if 'a'.toNat ≤ c.toNat ∧ c.toNat ≤ 'f'.toNat then some (c.toNat - 'a'.toNat + 10)
  else none

/-- The digits of a literal in a base, after a value already read. `_` is allowed between digits (R56): `afterDigit`
says whether the character before was a digit, so that `_` stands alone (DESIGN CHOICE, log entry 8). -/
def digitsValue (base : Nat) (acc : Nat) (afterDigit : Bool) : List Char → Option Nat
  | [] => if afterDigit then some acc else none
  | c :: cs =>
    if c = '_' then (if afterDigit then digitsValue base acc false cs else none)
    else match digitValue c with
      | some d => if d < base then digitsValue base (acc * base + d) true cs else none
      | none => none

/-- A numeric literal: decimal, or hexadecimal with `0x` (R56), in lower case (DESIGN CHOICE, log entry 8). -/
def literalValue : List Char → Option Nat
  | '0' :: 'x' :: ds => digitsValue 16 0 false ds
  | ds => digitsValue 10 0 false ds

/-- White space inside a line: spaces, tabs and carriage returns (DESIGN CHOICE, log entry 8). -/
def isBlank (c : Char) : Bool := c == ' ' || c == '\t' || c == '\r'

/-- The words of a line, cut at white space; `word` is the one being read, last character first. -/
def lineWords (word : List Char) : List Char → List (List Char)
  | [] => if word = [] then [] else [word.reverse]
  | c :: cs =>
    if isBlank c then (if word = [] then lineWords [] cs else word.reverse :: lineWords [] cs)
    else lineWords (c :: word) cs

/-- A lower-case letter's upper-case one; any other character as it is. -/
def upper (c : Char) : Char :=
  if 'a'.toNat ≤ c.toNat ∧ c.toNat ≤ 'z'.toNat then Char.ofNat (c.toNat - 32) else c

/-- A line with one operand, from its literal. -/
def withLiteral (literal : List Char) (line : Nat → AsmLine) : Except AsmError (Option AsmLine) :=
  match literalValue literal with
  | some v => .ok (some (line v))
  | none => .error .badLiteral

/-- One line of a program: none when it holds only white space and a comment. A comment runs from `;` to the end of
the line, and mnemonics are not case-sensitive (R56), `.cw` among them. The `n` of `PULL` and `PULL8` is a numeric
literal of any form that R56 gives `<v>` and `<w>`. Both, and what else R56 and R57 leave open of a line, are DESIGN
CHOICE, log entry 8. -/
def parseLine (text : List Char) : Except AsmError (Option AsmLine) :=
  match lineWords [] (text.takeWhile (· != ';')) with
  | [] => .ok none
  | [m] =>
    let m := m.map upper
    if m = ['E', 'X', 'T', 'R', 'A', 'C', 'T'] then .ok (some .extract)
    else if m = ['E', 'X', 'T', 'R', 'A', 'C', 'T', '8'] then .ok (some .extract8)
    else if m = ['S', 'T', 'A', 'T', 'U', 'S'] then .ok (some .status)
    else if m = ['K', 'B', 'Y', 'T', 'E'] then .ok (some .kbyte)
    else .error .badForm
  | [m, v] =>
    let m := m.map upper
    if m = ['S', 'E', 'E', 'D'] then withLiteral v .seed
    else if m = ['.', 'C', 'W'] then withLiteral v .cw
    else if m = ['S', 'E', 'E', 'D', 'W'] then withLiteral v .seedw
    else if m = ['K', 'S', 'E', 'E', 'D'] then withLiteral v .kseed
    else if m = ['P', 'U', 'L', 'L'] then withLiteral v .pull
    else if m = ['P', 'U', 'L', 'L', '8'] then withLiteral v .pull8
    else .error .badForm
  | _ => .error .badForm

/-- The command words of one line of text. -/
def assembleLine (text : List Char) : Except AsmError (List CommandWord) :=
  match parseLine text with
  | .ok none => .ok []
  | .ok (some line) => line.expand
  | .error e => .error e

/-- The lines of a text, cut at line feeds and at nothing else; a carriage return is white space (`isBlank`), and what
stands after the last line feed is a line too. R56 says only "a sequence of lines": DESIGN CHOICE, log entry 8. `line` is
the one being read, last character first. -/
def textLines (line : List Char) : List Char → List (List Char)
  | [] => [line.reverse]
  | c :: cs => if c = '\n' then line.reverse :: textLines [] cs else textLines (c :: line) cs

/-- The command words of lines, in order; the first refused line refuses the program (DESIGN CHOICE, log entry 8). -/
def assembleLines : List (List Char) → Except AsmError (List CommandWord)
  | [] => .ok []
  | l :: ls =>
    match assembleLine l with
    | .error e => .error e
    | .ok ws =>
      match assembleLines ls with
      | .error e => .error e
      | .ok ws' => .ok (ws ++ ws')

/-- The command words of a program's text (R56). -/
def assemble (text : List Char) : Except AsmError (List CommandWord) := assembleLines (textLines [] text)

/-- What a disassembler prints for a word, as a line (R58): `.cw` for an illegal word, and for a word of `EXTRACT`,
`EXTRACT8` or `STATUS` whose data field is not 0. -/
def disassemble (cw : CommandWord) : AsmLine :=
  match decode cw with
  | .seed v => .seed v.toNat
  | .extract d => if d = 0#32 then .extract else .cw cw.toNat
  | .extract8 d => if d = 0#32 then .extract8 else .cw cw.toNat
  | .status d => if d = 0#32 then .status else .cw cw.toNat
  | .illegal _ _ => .cw cw.toNat

/-- A hexadecimal digit, upper case. -/
def hexDigit (d : Nat) : Char := if d < 10 then Char.ofNat ('0'.toNat + d) else Char.ofNat ('A'.toNat + (d - 10))

/-- The low `k` hexadecimal digits of a number, the highest first. -/
def hexDigits : Nat → Nat → List Char
  | 0, _ => []
  | k + 1, n => hexDigit (n / 16 ^ k % 16) :: hexDigits k n

/-- The text of a disassembled word, with the canonical upper-case mnemonics (R56, R58). Operands are printed in
hexadecimal, a raw word as R47 writes it (`0x01_0000002A`). DESIGN CHOICE, log entry 8. -/
def disassembledText (cw : CommandWord) : List Char :=
  match disassemble cw with
  | .seed v => ['S', 'E', 'E', 'D', ' ', '0', 'x'] ++ hexDigits 8 v
  | .extract => ['E', 'X', 'T', 'R', 'A', 'C', 'T']
  | .extract8 => ['E', 'X', 'T', 'R', 'A', 'C', 'T', '8']
  | .status => ['S', 'T', 'A', 'T', 'U', 'S']
  | _ => ['.', 'c', 'w', ' ', '0', 'x'] ++ hexDigits 2 cw.op.toNat ++ '_' :: hexDigits 8 cw.data.toNat

end Sys2Proof.Machine
end

