-- ==== Sys2Proof/Machine/Cores.lean ====
section
/-! DEFINITION. Several cores side by side (R22, R44, R95): each has a state of its own, and an edge of one core's
clock is a step of that core alone. Edges are taken one core at a time (DEDUCED, log entry 13). All cores read the same
free values of `Config`, so that cores with the same `freeIndex` carry the same idle pins, which the spec leaves open
(DESIGN CHOICE, log entry 14). -/

namespace Sys2Proof.Machine

/-- An edge of the clock of core number `k`. With no such core nothing happens. -/
def stepCore (k : Nat) (cores : List State) : Host.Outcome (List State) Fault Refusal :=
  match cores[k]? with
  | none => .next cores
  | some s =>
    match step s with
    | .next t => .next (cores.set k t)
    | .fault r => .fault r
    | .refused r => .refused r

/-- Edges of the cores' clocks in the order of a schedule of core numbers. The cores are not ordered with respect to
each other, so any schedule can happen (R44). -/
def stepCores : List Nat → List State → Host.Outcome (List State) Fault Refusal
  | [], cores => .next cores
  | k :: ks, cores =>
    match stepCore k cores with
    | .next cores' => stepCores ks cores'
    | .fault r => .fault r
    | .refused r => .refused r

end Sys2Proof.Machine
end

