-- ==== Sys2Proof/Machine/Trace.lean ====
section
/-! DEFINITION. Runs of the machine over many edges, and what the host sees of them: the commands accepted and the
responses taken (R106, R108). -/

namespace Sys2Proof.Machine

/-- The state after one edge. A step that stopped would leave the state; none does (R54, R100). -/
def State.edge (s : State) : State :=
  match step s with
  | .next t => t
  | .fault _ => s
  | .refused _ => s

/-- The state after `n` edges. -/
def State.run : Nat → State → State
  | 0, s => s
  | n + 1, s => State.run n s.edge

/-- The command that the next edge accepts, if it accepts one (R106). -/
def State.acceptedNow (s : State) : Option Instr := if s.accepts then some (decode s.pins.word) else none

/-- The response that the host takes at the next edge, if it takes one (R108). -/
def State.takenNow (s : State) : Option Response := if s.pins.rspReady then s.presented else none

/-- The commands accepted in `n` edges, in order. -/
def State.accepted : Nat → State → List Instr
  | 0, _ => []
  | n + 1, s => s.acceptedNow.toList ++ State.accepted n s.edge

/-- The responses taken in `n` edges, in order. -/
def State.taken : Nat → State → List Response
  | 0, _ => []
  | n + 1, s => s.takenNow.toList ++ State.taken n s.edge

/-- The output pins of `n` cycles, in order (R46). -/
def State.outputTrace : Nat → State → List PortOut
  | 0, _ => []
  | n + 1, s => s.outputs :: State.outputTrace n s.edge

/-- None of the next `n` edges samples `rst = 1`. -/
def State.noReset (n : Nat) (s : State) : Prop := ∀ k, k < n → (s.run k).pins.rst = false

end Sys2Proof.Machine
end

