-- ==== Sys2Proof/Machine/Transaction.lean ====
section
/-! DEFINITION. The architectural level of the spec (R45): a command is one atomic step on the generator with one
response, and time does not show. `exec` does the same at the edge that accepts the command; the port's edges only
carry the response out. Also the words in which the spec's rules speak of an output stream (R14, R29, R80). -/

namespace Sys2Proof.Machine

/-- `execute(CW)` of R54, on a decoded command. -/
def execute (i : Instr) (g : Generator) : Generator × Response :=
  match i with
  | .seed v => commandSeed v g
  | .extract _ => commandExtract g
  | .extract8 _ => commandExtract8 g
  | .status _ => commandStatus g
  | .illegal _ _ => commandIllegal g

/-- `execute(CW)` on a command word: total on all 2^40 of them (R54). -/
def executeWord (cw : CommandWord) (g : Generator) : Generator × Response := execute (decode cw) g

/-- A sequence of commands, in order: the generator after the last and the responses of all, first to last (R39). -/
def executeAll : List Instr → Generator → Generator × List Response
  | [], g => (g, [])
  | i :: is, g =>
    let (g₁, r) := execute i g
    let (g₂, rs) := executeAll is g₁
    (g₂, r :: rs)

/-- Is the command an extraction, `EXTRACT` or `EXTRACT8` (R75)? -/
def isExtraction : Instr → Bool
  | .seed _ => false
  | .extract _ => true
  | .extract8 _ => true
  | .status _ => false
  | .illegal _ _ => false

/-- Is the command `SEED`? -/
def isSeed : Instr → Bool
  | .seed _ => true
  | .extract _ => false
  | .extract8 _ => false
  | .status _ => false
  | .illegal _ _ => false

/-- The latency parameter that a command's response waits for: `LAT_SEED`, `LAT_EXTRACT` (no twist),
`LAT_TWIST_EXTRACT`, or `LAT_OTHER` for `STATUS` and illegal commands (R110). -/
def commandLatency (i : Instr) (g : Generator) : LatencyClass :=
  match i with
  | .seed _ => .seed
  | .extract _ => extractionLatency g
  | .extract8 _ => extractionLatency g
  | .status _ => .other
  | .illegal _ _ => .other

/-- Generation `n` counted from a state vector: its content after `n` twists (R14). -/
def generationFrom (mt : StateVector) : Nat → StateVector
  | 0 => mt
  | n + 1 => twistVector (generationFrom mt n)

/-- Generation `n` of seed `v`: the content of `MT` after the `n`-th twist since `SEED v`, generation 0 being what
`SEED v` wrote (R14). -/
def generation (v : Word) (n : Nat) : StateVector :=
  generationFrom (seedVector v (Vector.replicate 624 0#32)) n

/-- The words of successive generations as one sequence: word `i` of generation `n` is number `624 * n + i` (R69). -/
def sequenceWord (mt : StateVector) (k : Nat) : Word :=
  (generationFrom mt (k / 624))[k % 624]'(Nat.mod_lt _ (by decide))

/-- The generator that `SEED v` leaves (R64). -/
def seededGenerator (v : Word) : Generator := { mt := generation v 0, idx := seededIdx }

/-- The generator after `k` successive pulls under a twist threshold; none once a pull fails (R79, R80). -/
def afterPulls (t : TwistThreshold) : Nat → Generator → Option Generator
  | 0, g => some g
  | k + 1, g => (afterPulls t k g).bind fun g' => (next t g').map Prod.fst

/-- The word that the pull after `k` others returns: output number `k + 1` (R29, R80). -/
def outputAfter (t : TwistThreshold) (k : Nat) (g : Generator) : Option Word :=
  (afterPulls t k g).bind fun g' => (next t g').map Prod.snd

end Sys2Proof.Machine
end

