-- ==== Sys2Proof/Safety.lean ====
section
/-! DEFINITION. What the claims mean by a sound state and a sound run. -/

namespace Sys2Proof.Machine

/-- R53: the data of a response whose status is not `OK` is 0. -/
def Response.Sound (r : Response) : Prop := r.status ≠ .ok → r.data = 0#32

/-- R18, R24: the cursor is a position, 624, or `UNSEEDED`. -/
def Generator.CursorInRange (g : Generator) : Prop := g.idx.toNat ≤ 625

/-- R28: either no seed has reached the core, or `MT` is a generation of some seed. In generation 0 no word has been
taken, so the cursor is still 624 (R61, R72); in a later generation at least one word has been taken (R29). -/
def Generator.Sound (g : Generator) : Prop :=
  g.idx = unseeded ∨
    ∃ v n, g.mt = generation v n ∧ (n = 0 → g.idx = seededIdx) ∧
      (0 < n → 1 ≤ g.idx.toNat ∧ g.idx.toNat ≤ 624)

/-- The invariant of every run from reset: the generator is sound, so is the response in flight (R53), and an
`INVALID_STATE` response is in flight only in an unseeded core (R87). -/
def State.Inv (s : State) : Prop :=
  s.gen.Sound ∧ ∀ r, s.phase.response? = some r →
    r.Sound ∧ (r.status = .invalidState → s.gen.idx = unseeded)

/-- A safe run: no number of edges stops the machine (R100). -/
def State.NeverStops (s : State) : Prop := ∀ n, ∃ t, Host.Core.run Sys2Proof.core n s = .next t

/-- Two states that a host cannot tell apart by R26: they are equal but for the content of `MT`, and if that differs,
both are unseeded. -/
def State.SameButUnseededContents (s t : State) : Prop :=
  s.gen.idx = t.gen.idx ∧ (s.gen.idx = unseeded ∨ s.gen.mt = t.gen.mt) ∧
    s.phase = t.phase ∧ s.inputs = t.inputs ∧ s.freeIndex = t.freeIndex

end Sys2Proof.Machine
end

