-- ==== Sys2Proof/Certificates/Slice0/Obligations.lean ====
section
/-! DEFINITION. The statements for the provers. Each says which rule of the spec it formalises. A statement about a
command's result gives the whole next state, so that it is also the command's completion and its frame: what is not
named in `{ s with … }` is unchanged. -/

open Sys2Proof Sys2Proof.Machine

/-! ## Reset -/

/-- R25: the cursor of a core after reset is `UNSEEDED` (625), and (R102) no command is in hand. -/
def Obligations.ResetLeavesCursorUnseeded : Prop :=
  State.reset.gen.idx = 625#10 ∧ State.reset.phase = .idle ∧ State.reset.presented = none

/-- R101, in the model's one-edge steps (log entries 9 and 11 say how it reads the cycle): an edge with `rst = 1`,
from any state, writes 625 to `idx`, leaves `MT` as anything, drops the command in flight and the response not taken,
and holds `cmd_ready` and `rsp_valid` at 0. No other edge writes 625 to a cursor that held something else. -/
def Obligations.ResetEdgeUnseedsAndAbandons : Prop :=
  (∀ s : State, s.pins.rst = true →
    (∃ mt, step s = .next
      { gen := { mt := mt, idx := 625#10 }, phase := .idle, inputs := s.inputs.tail, freeIndex := s.freeIndex + 1 }) ∧
    s.outputs.cmdReady = false ∧ s.outputs.rspValid = false ∧ s.acceptedNow = none ∧ s.takenNow = none) ∧
  (∀ s t : State, step s = .next t → s.gen.idx ≠ 625#10 → t.gen.idx = 625#10 → s.pins.rst = true)

/-! ## Seeding -/

/-- R59: one word of the seeding recurrence, exact and then reduced modulo 2^32; and XOR with the word shifted right by
30 changes only bits 1 and 0 of it. -/
def Obligations.InitWordIsReducedOnce : Prop :=
  ∀ (prev : Word) (i : Nat), 1 ≤ i → i < 624 →
    (initWord prev i).toNat = (1812433253 * (prev.toNat ^^^ (prev.toNat >>> 30)) + i) % 2 ^ 32 ∧
    ∀ j : Nat, 2 ≤ j → (prev ^^^ (prev >>> 30)).getLsbD j = prev.getLsbD j

/-- R64: `SEED v`, encoded as the word `0x01` followed by `v`, writes every word of `MT` by the recurrence (R59), in
exact arithmetic modulo 2^32, and 624 to `idx`, answers `(OK, 0)`, and changes nothing else. It completes from every
state. -/
def Obligations.SeedFillsStateVector : Prop :=
  ∀ (v : Word) (s : State), encode (.seed v) = 0x01#8 ++ v ∧ ∃ (mt : StateVector) (n : Nat),
    exec (.seed v) s = .next { s with gen := { mt := mt, idx := 624#10 }, phase := .busy n ⟨.ok, 0#32⟩ } ∧
    mt[0] = v ∧
    ∀ (i : Nat) (h : i + 1 < 624),
      mt[i + 1].toNat = (1812433253 * (mt[i].toNat ^^^ (mt[i].toNat >>> 30)) + (i + 1)) % 2 ^ 32

/-- R62: `SEED` is legal in every state and nothing of the previous state survives: from any two states it leaves the
same generator, with the same response. -/
def Obligations.SeedForgetsPreviousState : Prop :=
  ∀ (v : Word) (s₁ s₂ : State), ∃ (g : Generator) (r : Response) (n₁ n₂ : Nat),
    exec (.seed v) s₁ = .next { s₁ with gen := g, phase := .busy n₁ r } ∧
    exec (.seed v) s₂ = .next { s₂ with gen := g, phase := .busy n₂ r }

/-! ## Extraction -/

/-- R75, R76, R77 with the cursor at 0 to 623: no twist, the tempered word at the cursor (or its low byte), and the
cursor moves on by one. -/
def Obligations.ExtractionReturnsWordAtCursor : Prop :=
  ∀ (d : Word) (s : State) (h : s.gen.idx.toNat < 624), ∃ (idx' : Cursor) (n n' : Nat),
    idx'.toNat = s.gen.idx.toNat + 1 ∧
    exec (.extract d) s = .next { s with
      gen := { s.gen with idx := idx' }
      phase := .busy n ⟨.ok, temper s.gen.mt[s.gen.idx.toNat]⟩ } ∧
    exec (.extract8 d) s = .next { s with
      gen := { s.gen with idx := idx' }
      phase := .busy n' ⟨.ok, temper s.gen.mt[s.gen.idx.toNat] &&& 0xFF#32⟩ }

/-- R66, R68, R75 with the cursor at 624 or above and not 625: the twist runs in place, each word made of the old and
new words that R68's table names, with the constant when bit 0 of `x` is 1 (R65, R67); word 0 is taken and the cursor
becomes 1. -/
def Obligations.ExtractionTwistsInPlaceFirst : Prop :=
  ∀ (d : Word) (s : State), 624 ≤ s.gen.idx.toNat → s.gen.idx ≠ 625#10 →
    ∃ (mt : StateVector) (n n' : Nat),
      exec (.extract d) s = .next { s with
        gen := { mt := mt, idx := 1#10 }
        phase := .busy n ⟨.ok, temper mt[0]⟩ } ∧
      exec (.extract8 d) s = .next { s with
        gen := { mt := mt, idx := 1#10 }
        phase := .busy n' ⟨.ok, temper mt[0] &&& 0xFF#32⟩ } ∧
      let made (cur nxt far : Word) : Word :=
        let x := (cur &&& 0x80000000#32) ||| (nxt &&& 0x7FFFFFFF#32)
        far ^^^ (x >>> 1) ^^^ (if x.getLsbD 0 then 0x9908B0DF#32 else 0#32)
      (∀ (i : Nat) (h : i < 227), mt[i] = made s.gen.mt[i] s.gen.mt[i + 1] s.gen.mt[i + 397]) ∧
      (∀ (i : Nat) (h : i < 396), mt[i + 227] = made s.gen.mt[i + 227] s.gen.mt[i + 228] mt[i]) ∧
      mt[623] = made s.gen.mt[623] mt[0] mt[396]

/-- R87: in an unseeded core `EXTRACT` and `EXTRACT8` answer `(INVALID_STATE, 0)`, status `0b01`, and change nothing; no
other command answers `INVALID_STATE`, and these answer it in no other state. -/
def Obligations.UnseededExtractionFails : Prop :=
  Status.code .invalidState = 0b01#2 ∧
  (∀ (d : Word) (s : State), s.gen.idx = 625#10 → ∃ n n' : Nat,
    exec (.extract d) s = .next { s with phase := .busy n ⟨.invalidState, 0#32⟩ } ∧
    exec (.extract8 d) s = .next { s with phase := .busy n' ⟨.invalidState, 0#32⟩ }) ∧
  (∀ (i : Instr) (s t : State) (r : Response), exec i s = .next t → t.phase.response? = some r →
    (r.status = .invalidState ↔ isExtraction i = true ∧ s.gen.idx = 625#10))

/-- R78: `EXTRACT8` does to the state what `EXTRACT` does, its result is that of `EXTRACT` ANDed with `0xFF`, and in a
seeded core each consumes one position: the cursor moves on by one, from 0 where a twist came first. -/
def Obligations.BothExtractionsAreOneStream : Prop :=
  ∀ (d d' : Word) (s : State), ∃ (g : Generator) (r : Response) (n n' : Nat),
    exec (.extract d) s = .next { s with gen := g, phase := .busy n r } ∧
    exec (.extract8 d') s = .next { s with gen := g, phase := .busy n' ⟨r.status, r.data &&& 0xFF#32⟩ } ∧
    (s.gen.idx ≠ 625#10 → r.status = .ok ∧
      g.idx.toNat = (if s.gen.idx.toNat < 624 then s.gen.idx.toNat else 0) + 1)

/-- R73: the four tempering steps, each reading the value that the one before it wrote. -/
def Obligations.TemperIsFourSteps : Prop :=
  ∀ y : Word, ∃ y₁ y₂ y₃ : Word,
    y₁ = y ^^^ (y >>> 11) ∧ y₂ = y₁ ^^^ ((y₁ <<< 7) &&& 0x9D2C5680#32) ∧
    y₃ = y₂ ^^^ ((y₂ <<< 15) &&& 0xEFC60000#32) ∧ temper y = y₃ ^^^ (y₃ >>> 18)

/-- R74: `temper` is a bijection on words, and `temper(0) = 0`. -/
def Obligations.TemperIsBijective : Prop :=
  Function.Bijective temper ∧ temper 0#32 = 0#32

/-! ## Status and illegal commands -/

/-- R82: `STATUS`, encoded as `0x04` followed by any data, answers `OK` with the cursor zero-extended to 32 bits, in
every state, and changes nothing. -/
def Obligations.StatusReturnsCursor : Prop :=
  ∀ (d : Word) (s : State), encode (.status d) = 0x04#8 ++ d ∧ ∃ (n : Nat) (data : Word),
    data.toNat = s.gen.idx.toNat ∧
    exec (.status d) s = .next { s with phase := .busy n ⟨.ok, data⟩ }

/-- R55: every word whose opcode is not `0x01` to `0x04` is an illegal command, which answers `(ILLEGAL_COMMAND, 0)` in
every state and changes nothing. -/
def Obligations.IllegalCommandOnlyResponds : Prop :=
  (∀ (op : Opcode) (d : Word) (s : State), ∃ n : Nat,
    exec (.illegal op d) s = .next { s with phase := .busy n ⟨.illegalCommand, 0#32⟩ }) ∧
  (∀ cw : CommandWord, cw.op ≠ 0x01#8 → cw.op ≠ 0x02#8 → cw.op ≠ 0x03#8 → cw.op ≠ 0x04#8 →
    decode cw = .illegal cw.op cw.data)

/-! ## Errors and responses, over all commands -/

/-- R86: a command whose response is not `OK` changes nothing but that its response is on its way. -/
def Obligations.FailingCommandWritesNoState : Prop :=
  ∀ (i : Instr) (s t : State) (r : Response), exec i s = .next t → t.phase.response? = some r →
    r.status ≠ .ok → ∃ n : Nat, t = { s with phase := .busy n r }

/-- R53: `rsp_data` is 0 in every response that is not `OK`, and in the response of `SEED`. -/
def Obligations.DataIsZeroOnErrorAndSeed : Prop :=
  ∀ (i : Instr) (s t : State) (r : Response), exec i s = .next t → t.phase.response? = some r →
    (r.status ≠ .ok ∨ isSeed i = true) → r.data = 0#32

/-- R88, R90: a response is `ILLEGAL_COMMAND` exactly for an illegal command, and `INVALID_STATE` exactly for an
extraction in an unseeded core, so a command that meets neither cause answers `OK`. -/
def Obligations.EachErrorHasItsOwnCause : Prop :=
  ∀ (i : Instr) (s : State), ∃ (t : State) (r : Response),
    exec i s = .next t ∧ t.phase.response? = some r ∧
    (r.status = .illegalCommand ↔ i.mnemonic = .ILLEGAL) ∧
    (r.status = .invalidState ↔ isExtraction i = true ∧ s.gen.idx = 625#10) ∧
    (r.status = .ok ↔ i.mnemonic ≠ .ILLEGAL ∧ ¬ (isExtraction i = true ∧ s.gen.idx = 625#10))

/-- R36: the width of what each command answers. -/
def Obligations.ResponseWidths : Prop :=
  ∀ (i : Instr) (s : State), ∃ (t : State) (r : Response),
    exec i s = .next t ∧ t.phase.response? = some r ∧
    (i.mnemonic = .EXTRACT8 → r.data.toNat < 2 ^ 8) ∧ (i.mnemonic = .STATUS → r.data.toNat < 2 ^ 10) ∧
    (i.mnemonic = .SEED ∨ i.mnemonic = .ILLEGAL → r.data = 0#32)

/-- R50: two command words with the same opcode, not that of `SEED`, do the same, whatever their data fields. -/
def Obligations.DataFieldIsIgnoredExceptBySeed : Prop :=
  ∀ (cw cw' : CommandWord) (s : State), cw.op = cw'.op → cw.op ≠ 0x01#8 → exec (decode cw) s = exec (decode cw') s

/-! ## Encoding -/

/-- R47, R49, R50: decoding an encoded well-formed command gives it back, with every operand and every ignored field. -/
def Obligations.DecodeInvertsEncode : Prop :=
  ∀ i : Instr, i.wellFormed = true → decode (encode i) = i

/-- R47, R54: every one of the 2^40 command words decodes to a well-formed command, which encodes to that word. -/
def Obligations.EncodeInvertsDecode : Prop :=
  ∀ cw : CommandWord, (decode cw).wellFormed = true ∧ encode (decode cw) = cw

/-- R49, R50, R54: every command word belongs to exactly one row of the opcode table, and decodes to a command with
that row's mnemonic. -/
def Obligations.EveryWordBelongsToOneTableRow : Prop :=
  ∀ cw : CommandWord, ∃ r ∈ opcodeTable, r.selects cw = true ∧ (decode cw).mnemonic = r.mnemonic ∧
    ∀ r' ∈ opcodeTable, r'.selects cw = true → r' = r

/-- R49: the opcode map. -/
def Obligations.OpcodeMap : Prop :=
  ∀ data : Word,
    decode (0x01#8 ++ data) = .seed data ∧ decode (0x02#8 ++ data) = .extract data ∧
    decode (0x03#8 ++ data) = .extract8 data ∧ decode (0x04#8 ++ data) = .status data ∧
    decode (0x00#8 ++ data) = .illegal 0x00#8 data ∧
    ∀ op : Opcode, 0x05 ≤ op.toNat → decode (op ++ data) = .illegal op data

/-- Words written out by hand from R47 and R49 decode to the commands that they stand for. -/
def Obligations.WrittenOutWordsDecode : Prop :=
  decode 0x010000002A#40 = .seed 42#32 ∧ decode 0x01FFFFFFFF#40 = .seed 0xFFFFFFFF#32 ∧
  decode 0x0200000000#40 = .extract 0#32 ∧ decode 0x0212345678#40 = .extract 0x12345678#32 ∧
  decode 0x0300000000#40 = .extract8 0#32 ∧ decode 0x04FFFFFFFF#40 = .status 0xFFFFFFFF#32 ∧
  decode 0x0000000000#40 = .illegal 0x00#8 0#32 ∧ decode 0x0500000000#40 = .illegal 0x05#8 0#32

/-! ## The port -/

/-- R106: an edge with `rst = 0`, `cmd_valid = 1` and `cmd_ready = 1` accepts the command on the pins, and the step
runs exactly the command that `cmd_op` and `cmd_data` decode to; at every other edge they are ignored. That the whole
command runs at this edge is the model's reading of R37 and R112 (log entry 9). -/
def Obligations.StepRunsTheAcceptedCommand : Prop :=
  (∀ s : State, s.pins.rst = false → s.pins.cmdValid = true → s.outputs.cmdReady = true →
    step s = exec (decode (s.pins.cmdOp ++ s.pins.cmdData))
      { s with inputs := s.inputs.tail, freeIndex := s.freeIndex + 1 }) ∧
  (∀ (s : State) (p : PortIn) (rest : List PortIn) (op : Opcode) (data : Word),
    s.inputs = p :: rest → ¬ (p.rst = false ∧ p.cmdValid = true ∧ s.outputs.cmdReady = true) →
    step s = step { s with inputs := { p with cmdOp := op, cmdData := data } :: rest })

/-- The model's own convention (log entries 6 and 7): a word placed with `withFetchWord` is the command that the very
next step runs, in the state as it was but for the port being idle and one edge having passed. -/
def Obligations.PlacedWordRunsNext : Prop :=
  ∀ (s : State) (w : Nat), w < 2 ^ 40 →
    step (s.withFetchWord 40 w) =
      exec (decode (BitVec.ofNat 40 w)) { s with phase := .idle, freeIndex := s.freeIndex + 1 }

/-- R99: between commands an idle core holds everything. -/
def Obligations.IdleCoreHoldsState : Prop :=
  ∀ s : State, s.phase = .idle → s.pins.rst = false → s.pins.cmdValid = false →
    step s = .next { s with inputs := s.inputs.tail, freeIndex := s.freeIndex + 1 }

/-- R107: the edge that accepts a command leaves it in flight; while a command is in flight `cmd_ready = 0`, no
command is accepted, the generator is held, and the same response stays in flight until the edge at which the host
takes it. That the generator does not change while a command is in flight is the model's reading (log entry 9,
DEDUCED): R112 leaves open when the writes finish. -/
def Obligations.OneCommandInFlight : Prop :=
  (∀ (s t : State) (i : Instr), s.acceptedNow = some i → step s = .next t →
    s.phase.response? = none ∧ ∃ r, t.phase.response? = some r) ∧
  (∀ (s t : State) (r : Response), s.phase.response? = some r → s.pins.rst = false → step s = .next t →
    s.outputs.cmdReady = false ∧ s.acceptedNow = none ∧ t.gen = s.gen ∧
    ((s.takenNow = none ∧ t.phase.response? = some r) ∨ (s.takenNow = some r ∧ t.phase = .idle)))

/-- R108: a presented response is on the pins, unchanged until an edge with `rsp_ready = 1`, at which it is taken and
`rsp_valid` falls. That the generator does not change meanwhile is the model's reading (log entry 9, DEDUCED): R112
leaves open when the writes finish. -/
def Obligations.ResponseHeldUntilTaken : Prop :=
  ∀ (s : State) (r : Response), s.phase = .presenting r → s.pins.rst = false →
    s.outputs.rspValid = true ∧ s.outputs.rspStatus = r.status.code ∧ s.outputs.rspData = r.data ∧
    ∃ t, step s = .next t ∧ t.gen = s.gen ∧
      (s.pins.rspReady = false → s.takenNow = none ∧ t.phase = .presenting r) ∧
      (s.pins.rspReady = true → s.takenNow = some r ∧ t.phase = .idle ∧ t.outputs.rspValid = false)

/-- R52: the codes of the three statuses, and a presented response carries one of them, never `0b11`, on `rsp_status`. -/
def Obligations.NoResponseCarriesTheFourthCode : Prop :=
  Status.code .ok = 0b00#2 ∧ Status.code .invalidState = 0b01#2 ∧ Status.code .illegalCommand = 0b10#2 ∧
  ∀ s : State, s.outputs.rspValid = true →
    s.outputs.rspStatus ≠ 0b11#2 ∧ ∃ c, Status.ofCode? s.outputs.rspStatus = some c

/-- R110, R100: the response of an accepted command is presented exactly when the command's latency, at least one
cycle and finite, has passed since its acceptance, if no reset comes between; and the command's whole effect on the
generator is there from the acceptance on. That the generator holds the effect at every edge from the acceptance until
the response is presented is the model's reading (log entry 9, DEDUCED): R112 leaves open when the writes finish. How
edges are counted, and which latency parameter a command takes, is the model's (log entries 3 and 9). -/
def Obligations.ResponseComesAfterItsLatency : Prop :=
  ∀ (s t : State) (i : Instr), s.acceptedNow = some i → step s = .next t →
    ∃ lat : Nat, 1 ≤ lat ∧ lat = Config.latency (commandLatency i s.gen) s.gen.idx ∧
      (t.noReset lat →
        (∀ k, k < lat → (t.run k).presented = none ∧ (t.run k).gen = (execute i s.gen).1) ∧
        (t.run lat).phase = .presenting (execute i s.gen).2 ∧ (t.run lat).gen = (execute i s.gen).1)

/-- R109: while the host takes no response, and does not reset the core, the core holds the response and accepts
nothing, for ever. That the generator does not change meanwhile is the model's reading (log entry 9, DEDUCED): R112
leaves open when the writes finish. -/
def Obligations.UntakenResponseBlocksThePort : Prop :=
  ∀ (s : State) (r : Response) (n : Nat), s.phase = .presenting r → s.noReset n →
    (∀ k, k < n → (s.run k).pins.rspReady = false) →
    (s.run n).phase = .presenting r ∧ (s.run n).gen = s.gen ∧ s.accepted n = [] ∧ s.taken n = []

/-- R100, R109: a command in flight gets its one response once the host is ready after its latency, if no reset comes
between; only the host's readiness can put it off further. Which edges these are is the model's count (log entry 9).
-/
def Obligations.ReadyHostGetsTheResponse : Prop :=
  ∀ (s : State) (left : Nat) (r : Response) (m : Nat), s.phase = .busy left r → s.noReset (left + 1 + m + 1) →
    (s.run (left + 1 + m)).pins.rspReady = true →
    ∃ k, left < k ∧ k ≤ left + 1 + m ∧ s.taken k = [] ∧ s.taken (k + 1) = [r] ∧ (s.run (k + 1)).phase = .idle

/-- R54, R100: no number of edges stops the machine, from any state. -/
def Obligations.MachineNeverStops : Prop :=
  ∀ s : State, s.NeverStops

/-! ## Invariants and whole-machine rules -/

/-- R24: every step keeps the cursor at 625 or below, and so it is on every run from reset, whatever the host does.
That this holds at every edge, also while a command is in flight, is the model's reading (log entry 9, DEDUCED). -/
def Obligations.CursorStaysInRange : Prop :=
  (∀ s t : State, s.gen.CursorInRange → step s = .next t → t.gen.CursorInRange) ∧
  (∀ (inputs : List PortIn) (n : Nat), (State.run n { State.reset with inputs := inputs }).gen.CursorInRange)

/-- The invariant of the next statement holds after reset. -/
def Obligations.ResetMeetsTheInvariant : Prop :=
  State.reset.Inv

/-- R28, R53, R72, R87: every step keeps this: the core is unseeded, or `MT` is a generation of some seed, with the
cursor still at 624 in generation 0; and the response in flight has data 0 unless it is `OK`, and is `INVALID_STATE`
only in an unseeded core. That this holds at every edge, also while a command is in flight, is the model's reading
(log entry 9, DEDUCED). -/
def Obligations.StepKeepsTheInvariant : Prop :=
  ∀ s t : State, s.Inv → step s = .next t → t.Inv

/-- R16, R23, R70: whatever changes `MT` is a reset, a `SEED`, or an extraction that twists (cursor at 624 or above
and not 625); whatever changes `idx` is a reset, a `SEED` or an extraction. That a command changes them at the very
edge that accepts it is the model's reading (log entry 9, DEDUCED): R112 leaves open when the writes finish. -/
def Obligations.OnlyListedEventsWriteTheGenerator : Prop :=
  ∀ s t : State, step s = .next t →
    (t.gen.mt ≠ s.gen.mt → s.pins.rst = true ∨ ∃ i, s.acceptedNow = some i ∧
      (isSeed i = true ∨ (isExtraction i = true ∧ 624 ≤ s.gen.idx.toNat ∧ s.gen.idx ≠ 625#10))) ∧
    (t.gen.idx ≠ s.gen.idx → s.pins.rst = true ∨ ∃ i, s.acceptedNow = some i ∧
      (isSeed i = true ∨ isExtraction i = true))

/-! ## The output stream -/

/-- R69: the words of successive generations, numbered as one sequence, follow one recurrence, across the ends of
generations too. -/
def Obligations.GenerationsFollowOneRecurrence : Prop :=
  ∀ (mt : StateVector) (k : Nat),
    let z := (sequenceWord mt k &&& 0x80000000#32) ||| (sequenceWord mt (k + 1) &&& 0x7FFFFFFF#32)
    sequenceWord mt (k + 624) =
      sequenceWord mt (k + 397) ^^^ ((z >>> 1) ^^^ (if z.getLsbD 0 then 0x9908B0DF#32 else 0#32))

/-- R29: after `SEED v` and commands among which `k >= 1` are extractions and none is `SEED`, the cursor is
`((k-1) mod 624) + 1` and `MT` is generation `ceil(k / 624)`; and the `k`-th extraction returned the tempered value of
word `(k-1) mod 624` of generation `ceil(k / 624)`. -/
def Obligations.PositionInTheOutputStream : Prop :=
  (∀ (v : Word) (is : List Instr) (g : Generator), (∀ i ∈ is, isSeed i = false) → 1 ≤ is.countP isExtraction →
    (executeAll (.seed v :: is) g).1.idx.toNat = (is.countP isExtraction - 1) % 624 + 1 ∧
    (executeAll (.seed v :: is) g).1.mt = generation v ((is.countP isExtraction + 623) / 624)) ∧
  (∀ (v d : Word) (is : List Instr) (g : Generator), (∀ i ∈ is, isSeed i = false) →
    let y := temper ((generation v ((is.countP isExtraction + 624) / 624))[is.countP isExtraction % 624]'(
      Nat.mod_lt _ (by decide)))
    (execute (.extract d) (executeAll (.seed v :: is) g).1).2 = ⟨.ok, y⟩ ∧
    (execute (.extract8 d) (executeAll (.seed v :: is) g).1).2 = ⟨.ok, y &&& 0xFF#32⟩)

/-- R40: the responses from a `SEED v` on, and the generator they leave, depend only on `v` and the commands after it. -/
def Obligations.StreamDependsOnSeedOnly : Prop :=
  ∀ (v : Word) (is : List Instr) (g g' : Generator), executeAll (.seed v :: is) g = executeAll (.seed v :: is) g'

/-- R38: `STATUS` twice in a row answers the same and changes nothing, `SEED v` twice leaves what it leaves once, and a
failed extraction or an illegal command changes nothing. -/
def Obligations.RepeatedCommands : Prop :=
  ∀ g : Generator,
    (∀ d d' : Word, ∃ r, executeAll [.status d, .status d'] g = (g, [r, r])) ∧
    (∀ v : Word, (executeAll [.seed v, .seed v] g).1 = (executeAll [.seed v] g).1) ∧
    (∀ i : Instr, (execute i g).2.status ≠ .ok → (execute i g).1 = g)

/-- R104: a stream that began with `SEED v` is resumed, in any core, by `SEED v` and as many extractions as were
issued since. -/
def Obligations.ReseedingAndSkippingResumesTheStream : Prop :=
  ∀ (v : Word) (is : List Instr) (g g' : Generator), (∀ i ∈ is, isSeed i = false) →
    (executeAll (.seed v :: is) g).1 =
      (executeAll (.seed v :: List.replicate (is.countP isExtraction) (.extract 0#32)) g').1

/-- R80: from a fresh seed every pull succeeds under either threshold; output number `j` of the reference variant is
output number `j + floor((j-1)/623)` of this hardware (`k` is `j - 1`); and after 624 pulls the variant has run two
twists and its cursor is 1. -/
def Obligations.ReferenceVariantSkipsLastWords : Prop :=
  ∀ v : Word,
    (∀ k : Nat, outputAfter .reference k (seededGenerator v) =
        outputAfter .textbook (k + k / 623) (seededGenerator v) ∧
      (outputAfter .textbook k (seededGenerator v)).isSome = true) ∧
    afterPulls .reference 624 (seededGenerator v) = some { mt := generation v 2, idx := 1#10 } ∧
    afterPulls .textbook 624 (seededGenerator v) = some { mt := generation v 1, idx := 624#10 }

/-! ## The two levels, and what cannot be seen -/

/-- R37, R39, R45, R108: the port does what the transactions say. Over any edges without a reset, the generator goes
where the accepted commands, executed one at a time in order, take it; and the responses taken, followed by the one
still in flight, are exactly theirs, in order, after the one that was in flight before. That the generator is there
already while a response is in flight is the model's reading (log entry 9, DEDUCED): R112 leaves open when the writes
finish. -/
def Obligations.PortRefinesTransactions : Prop :=
  ∀ (n : Nat) (s : State), s.noReset n →
    (s.run n).gen = (executeAll (s.accepted n) s.gen).1 ∧
    s.taken n ++ (s.run n).phase.response?.toList =
      s.phase.response?.toList ++ (executeAll (s.accepted n) s.gen).2

/-- R26: what `MT` holds before the first `SEED` after reset is never seen: two machines that differ only in it show
the same pins in every cycle, and the host takes the same responses, for ever, resets and seeds included. R26 and U1
promise equal responses; that the pins agree in every cycle is the model's: its latencies do not vary with `MT` (log
entry 3) and its pins outside a presentation are a function of `freeIndex` (log entry 4). -/
def Obligations.UnseededContentsAreNeverSeen : Prop :=
  ∀ (s t : State) (n : Nat), s.SameButUnseededContents t →
    s.outputTrace n = t.outputTrace n ∧ s.taken n = t.taken n ∧ s.accepted n = t.accepted n

/-- R22, R44: under any schedule of several cores' clocks, each core does exactly what it would do alone. The schedule
as a list of core numbers is the model's form (log entry 13). -/
def Obligations.CoresAreIndependent : Prop :=
  ∀ (ks : List Nat) (cores : List State), ∃ cores', stepCores ks cores = .next cores' ∧
    cores'.length = cores.length ∧
    ∀ j : Nat, cores'[j]? = (cores[j]?).map (State.run (ks.count j))

/-! ## The assembler -/

/-- R56: what each command of the assembler encodes as; an operand that is too wide is refused, not truncated. -/
def Obligations.AssemblerEncodesCommands : Prop :=
  (∀ v : Nat, v < 2 ^ 32 → (AsmLine.seed v).expand = .ok [BitVec.ofNat 40 (0x0100000000 + v)]) ∧
  (∀ v : Nat, 2 ^ 32 ≤ v → (AsmLine.seed v).expand = .error .operandTooWide) ∧
  AsmLine.extract.expand = .ok [0x0200000000#40] ∧ AsmLine.extract8.expand = .ok [0x0300000000#40] ∧
  AsmLine.status.expand = .ok [0x0400000000#40] ∧
  (∀ w : Nat, w < 2 ^ 40 → (AsmLine.cw w).expand = .ok [BitVec.ofNat 40 w])

/-- R57: each pseudo-instruction expands to the commands of the table; `KSEED` of two numbers with the same low 16
bits is the same command (R63). That `PULL` and `PULL8` take every `n`, 0 among them, is the model's (log entry 8,
DESIGN CHOICE): R57 gives no range for it. -/
def Obligations.PseudoInstructionsExpand : Prop :=
  (∀ v : Nat, (AsmLine.seedw v).expand = (AsmLine.seed (v % 2 ^ 32)).expand) ∧
  (∀ v : Nat, (AsmLine.kseed v).expand = (AsmLine.seed (v % 2 ^ 16)).expand) ∧
  (∀ v w : Nat, v % 2 ^ 16 = w % 2 ^ 16 → (AsmLine.kseed v).expand = (AsmLine.kseed w).expand) ∧
  AsmLine.kbyte.expand = AsmLine.extract8.expand ∧
  (∀ n : Nat, (AsmLine.pull n).expand = .ok (List.replicate n 0x0200000000#40)) ∧
  (∀ n : Nat, (AsmLine.pull8 n).expand = .ok (List.replicate n 0x0300000000#40))

/-- R58: what the disassembler prints for each word, and that it assembles back to the same 40 bits. -/
def Obligations.DisassemblyForms : Prop :=
  ∀ cw : CommandWord,
    (cw.op = 0x01#8 → disassemble cw = .seed cw.data.toNat) ∧
    (cw.op = 0x02#8 → cw.data = 0#32 → disassemble cw = .extract) ∧
    (cw.op = 0x03#8 → cw.data = 0#32 → disassemble cw = .extract8) ∧
    (cw.op = 0x04#8 → cw.data = 0#32 → disassemble cw = .status) ∧
    (cw.op ≠ 0x01#8 → (cw.data ≠ 0#32 ∨ (cw.op ≠ 0x02#8 ∧ cw.op ≠ 0x03#8 ∧ cw.op ≠ 0x04#8)) →
      disassemble cw = .cw cw.toNat) ∧
    (disassemble cw).expand = .ok [cw]

/-- R58, down to the characters: the printed line of any command word assembles back to that word. The choice of
hexadecimal literals is the model's (log entry 8). -/
def Obligations.PrintedLineAssemblesBack : Prop :=
  ∀ cw : CommandWord, assembleLine (disassembledText cw) = .ok [cw]
end

