-- ==== Sys2Proof/Laws/State.lean ====
section
/-! SUPPORT. One lemma per field for each update of the state, so that no proof unfolds a record update. -/

namespace Sys2Proof.Machine

@[simp] theorem State.sampled_gen (s : State) : s.sampled.gen = s.gen := rfl
@[simp] theorem State.sampled_phase (s : State) : s.sampled.phase = s.phase := rfl
@[simp] theorem State.sampled_inputs (s : State) : s.sampled.inputs = s.inputs.tail := rfl
@[simp] theorem State.sampled_freeIndex (s : State) : s.sampled.freeIndex = s.freeIndex + 1 := rfl

@[simp] theorem State.waitEdge_gen (s : State) (p : PortIn) : (s.waitEdge p).gen = s.gen := rfl
@[simp] theorem State.waitEdge_phase (s : State) (p : PortIn) :
    (s.waitEdge p).phase = s.phase.advance p.rspReady := rfl
@[simp] theorem State.waitEdge_inputs (s : State) (p : PortIn) : (s.waitEdge p).inputs = s.inputs := rfl
@[simp] theorem State.waitEdge_freeIndex (s : State) (p : PortIn) : (s.waitEdge p).freeIndex = s.freeIndex := rfl

@[simp] theorem State.resetEdge_idx (s : State) : s.resetEdge.gen.idx = unseeded := rfl
@[simp] theorem State.resetEdge_phase (s : State) : s.resetEdge.phase = .idle := rfl
@[simp] theorem State.resetEdge_inputs (s : State) : s.resetEdge.inputs = s.inputs := rfl
@[simp] theorem State.resetEdge_freeIndex (s : State) : s.resetEdge.freeIndex = s.freeIndex := rfl

@[simp] theorem State.presentCommand_gen (s : State) (cw : CommandWord) : (s.presentCommand cw).gen = s.gen := rfl
@[simp] theorem State.presentCommand_phase (s : State) (cw : CommandWord) : (s.presentCommand cw).phase = .idle := rfl
@[simp] theorem State.presentCommand_pins (s : State) (cw : CommandWord) :
    (s.presentCommand cw).pins = PortIn.command cw := rfl
@[simp] theorem State.presentCommand_freeIndex (s : State) (cw : CommandWord) :
    (s.presentCommand cw).freeIndex = s.freeIndex := rfl

@[simp] theorem twist_idx (g : Generator) : (twist g).idx = 0#10 := rfl
@[simp] theorem twist_mt (g : Generator) : (twist g).mt = twistVector g.mt := rfl

@[simp] theorem takeWord_mt (g : Generator) (h : g.idx.toNat < 624) : (takeWord g h).1.mt = g.mt := rfl
@[simp] theorem takeWord_idx (g : Generator) (h : g.idx.toNat < 624) : (takeWord g h).1.idx = g.idx + 1#10 := rfl
@[simp] theorem takeWord_word (g : Generator) (h : g.idx.toNat < 624) :
    (takeWord g h).2 = temper g.mt[g.idx.toNat] := rfl

@[simp] theorem respondOk_gen (g : Generator) (d : Word) : (respondOk g d).1 = g := rfl
@[simp] theorem respondOk_response (g : Generator) (d : Word) : (respondOk g d).2 = ⟨.ok, d⟩ := rfl
@[simp] theorem raiseInvalidState_gen (g : Generator) : (raiseInvalidState g).1 = g := rfl
@[simp] theorem raiseInvalidState_response (g : Generator) :
    (raiseInvalidState g).2 = ⟨.invalidState, 0#32⟩ := rfl
@[simp] theorem raiseIllegalCommand_gen (g : Generator) : (raiseIllegalCommand g).1 = g := rfl
@[simp] theorem raiseIllegalCommand_response (g : Generator) :
    (raiseIllegalCommand g).2 = ⟨.illegalCommand, 0#32⟩ := rfl

@[simp] theorem Phase.response?_idle : Phase.response? .idle = none := rfl
@[simp] theorem Phase.response?_busy (n : Nat) (r : Response) : (Phase.busy n r).response? = some r := rfl
@[simp] theorem Phase.response?_presenting (r : Response) : (Phase.presenting r).response? = some r := rfl
@[simp] theorem Phase.advance_idle (b : Bool) : Phase.advance b .idle = .idle := rfl
@[simp] theorem Phase.advance_busy_zero (b : Bool) (r : Response) : Phase.advance b (.busy 0 r) = .presenting r := rfl
@[simp] theorem Phase.advance_busy_succ (b : Bool) (n : Nat) (r : Response) :
    Phase.advance b (.busy (n + 1) r) = .busy n r := rfl
@[simp] theorem Phase.advance_presenting_taken (r : Response) : Phase.advance true (.presenting r) = .idle := rfl
@[simp] theorem Phase.advance_presenting_held (r : Response) :
    Phase.advance false (.presenting r) = .presenting r := rfl

@[simp] theorem State.run_zero (s : State) : State.run 0 s = s := rfl
@[simp] theorem State.run_succ (n : Nat) (s : State) : State.run (n + 1) s = State.run n s.edge := rfl
@[simp] theorem State.accepted_zero (s : State) : State.accepted 0 s = [] := rfl
@[simp] theorem State.taken_zero (s : State) : State.taken 0 s = [] := rfl

end Sys2Proof.Machine
end

