-- ==== Sys2Proof/Laws/Ops.lean ====
section
/-! SUPPORT. What each shared operation does, said once: the seed loop, the twist loop, `NEXT`, and the completion of
a command. Proofs cite these and unfold no operation. -/

namespace Sys2Proof.Machine

/-- The words of generation 0 as a sequence: the recurrence of R64 with no vector in it. -/
def seedWord (v : Word) : Nat → Word
  | 0 => v
  | n + 1 => initWord (seedWord v n) (n + 1)

theorem seedTurns_zero (v : Word) (mt : StateVector) : seedTurns v mt 0 (by omega) = mt.set 0 v := by
  simp only [seedTurns, Nat.fold_zero]

theorem seedTurns_succ (v : Word) (mt : StateVector) (k : Nat) (hk : k + 1 ≤ 623) :
    seedTurns v mt (k + 1) hk =
      (seedTurns v mt k (by omega)).set (k + 1) (initWord (seedTurns v mt k (by omega))[k] (k + 1)) := by
  simp only [seedTurns, Nat.fold_succ]

/-- After `k` turns of the seed loop, words 0 to `k` follow the recurrence and the others are untouched. -/
theorem seedTurns_getElem (v : Word) (mt : StateVector) (k : Nat) (hk : k ≤ 623) (j : Nat) (hj : j < 624) :
    (seedTurns v mt k hk)[j] = if j ≤ k then seedWord v j else mt[j] := by
  induction k generalizing j with
  | zero =>
    rw [seedTurns_zero, Vector.getElem_set]
    rcases Nat.eq_zero_or_pos j with rfl | h
    · simp [seedWord]
    · rw [if_neg (by omega), if_neg (by omega)]
  | succ k ih =>
    rw [seedTurns_succ, Vector.getElem_set, ih (by omega) k (by omega), if_pos le_rfl, ih (by omega) j hj]
    by_cases h : k + 1 = j
    · subst h
      simp [seedWord]
    · rw [if_neg h]
      by_cases hjk : j ≤ k
      · rw [if_pos hjk, if_pos (by omega)]
      · rw [if_neg hjk, if_neg (by omega)]

/-- Every word of a seeded vector: the recurrence of R64, whatever the vector was before. -/
theorem seedVector_getElem (v : Word) (mt : StateVector) (j : Nat) (hj : j < 624) :
    (seedVector v mt)[j] = seedWord v j := by
  rw [seedVector, seedTurns_getElem v mt 623 _ j hj, if_pos (by omega)]

theorem twistTurns_zero (mt : StateVector) : twistTurns mt 0 (by omega) = mt := by
  simp only [twistTurns, Nat.fold_zero]

theorem twistTurns_succ (mt : StateVector) (k : Nat) (hk : k + 1 ≤ 624) :
    twistTurns mt (k + 1) hk = twistTurn k hk (twistTurns mt k (by omega)) := by
  simp only [twistTurns, Nat.fold_succ]

/-- A turn of the twist loop writes only its own word. -/
theorem twistTurn_getElem_of_ne (i : Nat) (hi : i < 624) (mt : StateVector) (j : Nat) (hj : j < 624) (h : i ≠ j) :
    (twistTurn i hi mt)[j] = mt[j] := by
  rw [twistTurn, Vector.getElem_set_ne _ _ h]

/-- Before its own turn a word is the old one. -/
theorem twistTurns_getElem_old (mt : StateVector) (k : Nat) (hk : k ≤ 624) (j : Nat) (hj : j < 624) (h : k ≤ j) :
    (twistTurns mt k hk)[j] = mt[j] := by
  induction k with
  | zero => rw [twistTurns_zero]
  | succ k ih => rw [twistTurns_succ, twistTurn_getElem_of_ne _ _ _ _ _ (by omega), ih (by omega) (by omega)]

/-- After its own turn a word is the one that the whole twist leaves. -/
theorem twistTurns_getElem_new (mt : StateVector) (k : Nat) (hk : k ≤ 624) (j : Nat) (hj : j < 624) (h : j < k) :
    (twistTurns mt k hk)[j] = (twistVector mt)[j] := by
  rw [twistVector]
  obtain ⟨d, hd⟩ := Nat.exists_eq_add_of_le hk
  induction d generalizing k with
  | zero => simp only [Nat.add_zero] at hd; subst hd; rfl
  | succ d ih =>
    rw [← ih (k + 1) (by omega) (by omega) (by omega), twistTurns_succ, twistTurn_getElem_of_ne _ _ _ _ _ (by omega)]

/-- Every word that a twist leaves, by the words that it is made of: old or new as R68's table says. -/
theorem twistVector_getElem (mt : StateVector) (i : Nat) (hi : i < 624) :
    (twistVector mt)[i] = twistWord mt[i]
      (if h : i < 623 then mt[i + 1] else (twistVector mt)[0])
      (if h : i < 227 then mt[i + 397] else (twistVector mt)[i - 227]'(by omega)) := by
  have hnxt : (twistTurns mt i (by omega))[(i + 1) % 624]'(Nat.mod_lt _ (by decide)) =
      if h : i < 623 then mt[i + 1] else (twistVector mt)[0] := by
    by_cases h : i < 623
    · simp only [Nat.mod_eq_of_lt (show i + 1 < 624 by omega), dif_pos h]
      exact twistTurns_getElem_old mt i _ (i + 1) (by omega) (by omega)
    · obtain rfl : i = 623 := by omega
      rw [dif_neg h]
      exact twistTurns_getElem_new mt 623 _ 0 (by omega) (by omega)
  have hfar : (twistTurns mt i (by omega))[(i + 397) % 624]'(Nat.mod_lt _ (by decide)) =
      if h : i < 227 then mt[i + 397] else (twistVector mt)[i - 227]'(by omega) := by
    by_cases h : i < 227
    · simp only [Nat.mod_eq_of_lt (show i + 397 < 624 by omega), dif_pos h]
      exact twistTurns_getElem_old mt i _ (i + 397) (by omega) (by omega)
    · simp only [show (i + 397) % 624 = i - 227 by omega, dif_neg h]
      exact twistTurns_getElem_new mt i _ (i - 227) (by omega) (by omega)
  have hcur : (twistTurns mt i (by omega))[i] = mt[i] := twistTurns_getElem_old mt i _ i hi le_rfl
  have hturn : (twistTurns mt (i + 1) hi)[i] = (twistVector mt)[i] :=
    twistTurns_getElem_new mt (i + 1) hi i hi (by omega)
  rw [← hturn, twistTurns_succ, twistTurn, Vector.getElem_set_self, hcur, hnxt, hfar]

/-- `NEXT` below the threshold: the word at the cursor, and no twist. -/
theorem next_of_lt {t : TwistThreshold} {g : Generator} (h : g.idx.toNat < t.value) :
    next t g = some (takeWord g (TwistThreshold.lt_of_lt_value h)) := by
  rw [next, dif_pos h]

/-- `NEXT` in an unseeded core fails. -/
theorem next_of_unseeded {t : TwistThreshold} {g : Generator} (h : g.idx = unseeded) : next t g = none := by
  have : ¬ g.idx.toNat < t.value := fun hlt => by
    have := TwistThreshold.lt_of_lt_value hlt
    rw [h] at this
    exact absurd this (by decide)
  rw [next, dif_neg this, if_pos h]

/-- `NEXT` at or above the threshold in a seeded core: it twists, and takes word 0. -/
theorem next_of_twist {t : TwistThreshold} {g : Generator} (h : t.value ≤ g.idx.toNat) (hu : g.idx ≠ unseeded) :
    next t g = some ({ mt := twistVector g.mt, idx := 1#10 }, temper (twistVector g.mt)[0]) := by
  rw [next, dif_neg (by omega), if_neg hu]
  rfl

/-- The three things that `NEXT` can do (R75). -/
theorem next_cases (t : TwistThreshold) (g : Generator) :
    (∃ h : g.idx.toNat < t.value, next t g = some (takeWord g (TwistThreshold.lt_of_lt_value h))) ∨
    (g.idx = unseeded ∧ next t g = none) ∨
    (t.value ≤ g.idx.toNat ∧ g.idx ≠ unseeded ∧
      next t g = some ({ mt := twistVector g.mt, idx := 1#10 }, temper (twistVector g.mt)[0])) := by
  by_cases h : g.idx.toNat < t.value
  · exact .inl ⟨h, next_of_lt h⟩
  · by_cases hu : g.idx = unseeded
    · exact .inr (.inl ⟨hu, next_of_unseeded hu⟩)
    · exact .inr (.inr ⟨by omega, hu, next_of_twist (by omega) hu⟩)

theorem commandExtract_of_some {g g' : Generator} {y : Word} (h : next hardwareThreshold g = some (g', y)) :
    commandExtract g = (g', ⟨.ok, y⟩) := by
  rw [commandExtract, h]
  rfl

theorem commandExtract_of_none {g : Generator} (h : next hardwareThreshold g = none) :
    commandExtract g = (g, ⟨.invalidState, 0#32⟩) := by
  rw [commandExtract, h]
  rfl

theorem commandExtract8_of_some {g g' : Generator} {y : Word} (h : next hardwareThreshold g = some (g', y)) :
    commandExtract8 g = (g', ⟨.ok, lowByte y⟩) := by
  rw [commandExtract8, h]
  rfl

theorem commandExtract8_of_none {g : Generator} (h : next hardwareThreshold g = none) :
    commandExtract8 g = (g, ⟨.invalidState, 0#32⟩) := by
  rw [commandExtract8, h]
  rfl

theorem commandSeed_eq (v : Word) (g : Generator) :
    commandSeed v g = ({ mt := seedVector v g.mt, idx := seededIdx }, ⟨.ok, 0#32⟩) := rfl

theorem commandStatus_eq (g : Generator) : commandStatus g = (g, ⟨.ok, cursorData g.idx⟩) := rfl

theorem commandIllegal_eq (g : Generator) : commandIllegal g = (g, ⟨.illegalCommand, 0#32⟩) := rfl

/-- What each command can do to the generator and answer, in the five ways that there are. -/
theorem execute_cases (i : Instr) (g : Generator) :
    (∃ v, i = .seed v ∧ execute i g = ({ mt := seedVector v g.mt, idx := seededIdx }, ⟨.ok, 0#32⟩)) ∨
    (isExtraction i = true ∧ ∃ g' y z, next hardwareThreshold g = some (g', y) ∧ (z = y ∨ z = lowByte y) ∧
      execute i g = (g', ⟨.ok, z⟩)) ∨
    (isExtraction i = true ∧ g.idx = unseeded ∧ execute i g = (g, ⟨.invalidState, 0#32⟩)) ∨
    (∃ d, i = .status d ∧ execute i g = (g, ⟨.ok, cursorData g.idx⟩)) ∨
    (∃ op d, i = .illegal op d ∧ execute i g = (g, ⟨.illegalCommand, 0#32⟩)) := by
  have key : (∃ g' y, next hardwareThreshold g = some (g', y)) ∨
      (g.idx = unseeded ∧ next hardwareThreshold g = none) := by
    rcases next_cases hardwareThreshold g with ⟨_, hn⟩ | ⟨hu, hn⟩ | ⟨_, _, hn⟩
    · exact .inl ⟨_, _, hn⟩
    · exact .inr ⟨hu, hn⟩
    · exact .inl ⟨_, _, hn⟩
  cases i with
  | seed v => exact .inl ⟨v, rfl, rfl⟩
  | extract d =>
    rcases key with ⟨g', y, h⟩ | ⟨hu, h⟩
    · exact .inr (.inl ⟨rfl, g', y, y, h, .inl rfl, commandExtract_of_some h⟩)
    · exact .inr (.inr (.inl ⟨rfl, hu, commandExtract_of_none h⟩))
  | extract8 d =>
    rcases key with ⟨g', y, h⟩ | ⟨hu, h⟩
    · exact .inr (.inl ⟨rfl, g', y, _, h, .inr rfl, commandExtract8_of_some h⟩)
    · exact .inr (.inr (.inl ⟨rfl, hu, commandExtract8_of_none h⟩))
  | status d => exact .inr (.inr (.inr (.inl ⟨d, rfl, rfl⟩)))
  | illegal op d => exact .inr (.inr (.inr (.inr ⟨op, d, rfl, rfl⟩)))

/-- All that `exec` does, for every command: what `execute` does to the generator, and its response in flight, as
long as the command's latency parameter says. -/
theorem exec_eq_execute (i : Instr) (s : State) :
    exec i s = .next { s with
      gen := (execute i s.gen).1
      phase := .busy (Config.extraLatency (commandLatency i s.gen) s.gen.idx) (execute i s.gen).2 } := by
  cases i <;> rfl

/-- The same, from a known value of `execute`. -/
theorem exec_of_execute {i : Instr} {s : State} {g : Generator} {r : Response} (h : execute i s.gen = (g, r)) :
    ∃ n, exec i s = .next { s with gen := g, phase := .busy n r } :=
  ⟨_, by rw [exec_eq_execute, h]⟩

/-- The same, from a next state that `exec` answered and the response in flight there. -/
theorem exec_next {i : Instr} {s t : State} {r : Response} (h : exec i s = .next t)
    (hr : t.phase.response? = some r) :
    r = (execute i s.gen).2 ∧ ∃ n, t = { s with gen := (execute i s.gen).1, phase := .busy n r } := by
  rw [exec_eq_execute] at h
  cases h
  simp only [Phase.response?_busy, Option.some.injEq] at hr
  subst hr
  exact ⟨rfl, _, rfl⟩

end Sys2Proof.Machine
end

