-- ==== Sys2Proof/Laws/PerInstr.lean ====
section
/-! SUPPORT. The statements about every command that are made one constructor at a time. -/

namespace Sys2Proof.Laws

/-- The fields of an encoded command are its opcode and its data field. -/
theorem op_commandWord (op : Opcode) (data : Word) : (commandWord op data).op = op := by
  ext i hi
  simp only [commandWord, CommandWord.op, BitVec.getElem_extractLsb', BitVec.getLsbD_append]
  simp [BitVec.getLsbD_eq_getElem hi]

theorem data_commandWord (op : Opcode) (data : Word) : (commandWord op data).data = data := by
  ext i hi
  simp only [commandWord, CommandWord.data, BitVec.getElem_extractLsb', BitVec.getLsbD_append]
  simp [hi, BitVec.getLsbD_eq_getElem hi]

namespace EncodeFields

/-- The encoder puts a command's opcode at `CW[39:32]` and its data field at `CW[31:0]` (R47), and a well-formed
command is `illegal` exactly when its opcode is unassigned (R49, R55). -/
def Statement (i : Instr) : Prop :=
  (encode i).op = i.opcode ∧ (encode i).data = i.dataField ∧
    (i.wellFormed = true → (i.mnemonic = .ILLEGAL ↔ assignedOpcode i.opcode = false))

theorem seed (v : Word) : Statement (.seed v) :=
  ⟨op_commandWord _ _, data_commandWord _ _, fun _ => by simp [Instr.mnemonic, Instr.opcode, assignedOpcode]⟩

theorem extract (d : Word) : Statement (.extract d) :=
  ⟨op_commandWord _ _, data_commandWord _ _, fun _ => by simp [Instr.mnemonic, Instr.opcode, assignedOpcode]⟩

theorem extract8 (d : Word) : Statement (.extract8 d) :=
  ⟨op_commandWord _ _, data_commandWord _ _, fun _ => by simp [Instr.mnemonic, Instr.opcode, assignedOpcode]⟩

theorem status (d : Word) : Statement (.status d) :=
  ⟨op_commandWord _ _, data_commandWord _ _, fun _ => by simp [Instr.mnemonic, Instr.opcode, assignedOpcode]⟩

theorem illegal (op : Opcode) (d : Word) : Statement (.illegal op d) :=
  ⟨op_commandWord _ _, data_commandWord _ _, fun h => by
    simpa [Instr.mnemonic, Instr.opcode, Instr.wellFormed] using h⟩

end EncodeFields

end Sys2Proof.Laws
end

