-- ==== Sys2Proof/Laws/Port.lean ====
section
/-! SUPPORT. What one edge does, said once, and what the pins show. -/

namespace Sys2Proof.Machine

/-- A core accepts a command exactly when it is idle, not in reset, and shown one. -/
theorem State.accepts_eq_true_iff (s : State) :
    s.accepts = true ↔ s.phase = .idle ∧ s.pins.rst = false ∧ s.pins.cmdValid = true := by
  simp [State.accepts, State.cmdReady, and_assoc]

theorem step_of_reset {s : State} (h : s.pins.rst = true) : step s = .next s.sampled.resetEdge := by
  rw [step, if_pos h]

theorem step_of_accepts {s : State} (h : s.accepts = true) : step s = exec (decode s.pins.word) s.sampled := by
  have hr : s.pins.rst = false := ((State.accepts_eq_true_iff s).1 h).2.1
  rw [step, hr, if_neg (by decide), if_pos h]

theorem step_of_waits {s : State} (hr : s.pins.rst = false) (ha : s.accepts = false) :
    step s = .next (s.sampled.waitEdge s.pins) := by
  rw [step, hr, if_neg (by decide), ha, if_neg (by decide)]

/-- Everything that an edge can be: a reset, the acceptance of a command, or neither. -/
theorem step_cases {s t : State} (h : step s = .next t) :
    (s.pins.rst = true ∧ t = s.sampled.resetEdge) ∨
    (s.pins.rst = false ∧ s.accepts = true ∧ ∃ n,
      t = { s.sampled with
            gen := (execute (decode s.pins.word) s.gen).1
            phase := .busy n (execute (decode s.pins.word) s.gen).2 }) ∨
    (s.pins.rst = false ∧ s.accepts = false ∧ t = s.sampled.waitEdge s.pins) := by
  cases hr : s.pins.rst with
  | true =>
    rw [step_of_reset hr] at h
    exact .inl ⟨rfl, (Host.Outcome.next.inj h).symm⟩
  | false =>
    cases ha : s.accepts with
    | true =>
      rw [step_of_accepts ha, exec_eq_execute] at h
      exact .inr (.inl ⟨rfl, rfl, _, (Host.Outcome.next.inj h).symm⟩)
    | false =>
      rw [step_of_waits hr ha] at h
      exact .inr (.inr ⟨rfl, rfl, (Host.Outcome.next.inj h).symm⟩)

/-- The state that `edge` gives is the one that the step answers. -/
theorem State.edge_of_step {s t : State} (h : step s = .next t) : s.edge = t := by
  rw [State.edge, h]

/-- Every edge answers a next state, and `edge` gives it. -/
theorem step_eq_next_edge (s : State) : step s = .next s.edge := by
  have h : ∃ t, step s = .next t := by
    unfold step
    split
    · exact ⟨_, rfl⟩
    · split
      · exact ⟨_, exec_eq_execute _ _⟩
      · exact ⟨_, rfl⟩
  obtain ⟨t, ht⟩ := h
  rw [State.edge_of_step ht, ht]

/-- Every edge uses up one set of pins. -/
theorem State.edge_inputs (s : State) : s.edge.inputs = s.inputs.tail := by
  rcases step_cases (step_eq_next_edge s) with ⟨_, he⟩ | ⟨_, _, _, he⟩ | ⟨_, _, he⟩ <;> rw [he] <;> rfl

theorem State.run_add (m n : Nat) (s : State) : s.run (m + n) = (s.run m).run n := by
  induction m generalizing s with
  | zero => simp
  | succ m ih => rw [Nat.succ_add, State.run_succ, State.run_succ, ih]

/-- A host that drives nothing never does. -/
theorem State.run_inputs_of_nil {s : State} (h : s.inputs = []) (n : Nat) : (s.run n).inputs = [] := by
  induction n generalizing s with
  | zero => exact h
  | succ n ih => exact ih (by rw [State.edge_inputs, h, List.tail_nil])

theorem State.pins_of_inputs_nil {s : State} (h : s.inputs = []) : s.pins = PortIn.quiet := by
  rw [State.pins, h, List.headD_nil]

/-- With no inputs listed no edge is a reset. -/
theorem State.noReset_of_inputs_nil {s : State} (h : s.inputs = []) (n : Nat) : s.noReset n := fun k _ => by
  rw [State.pins_of_inputs_nil (State.run_inputs_of_nil h k)]
  rfl

/-- A core with a response in flight accepts nothing. -/
theorem State.accepts_eq_false_of_response {s : State} {r : Response} (h : s.phase.response? = some r) :
    s.accepts = false := by
  cases hp : s.phase with
  | idle => rw [hp] at h; cases h
  | busy n r' => simp [State.accepts, State.cmdReady, hp]
  | presenting r' => simp [State.accepts, State.cmdReady, hp]

/-- A run of the host's machine goes on past an edge. -/
theorem run_core_succ (n : Nat) (s : State) :
    Host.Core.run Sys2Proof.core (n + 1) s = Host.Core.run Sys2Proof.core n s.edge := by
  simp only [Host.Core.run, Sys2Proof.core, step_eq_next_edge s]

@[simp] theorem State.outputs_cmdReady (s : State) : s.outputs.cmdReady = s.cmdReady := by
  unfold State.outputs
  cases s.presented <;> rfl

@[simp] theorem State.outputs_rspValid (s : State) : s.outputs.rspValid = s.presented.isSome := by
  unfold State.outputs
  cases s.presented <;> rfl

theorem Status.ofCode?_code (c : Status) : Status.ofCode? c.code = some c := by
  cases c <;> rfl

end Sys2Proof.Machine
end

