-- ==== Sys2Proof/Tests/Slice0.lean ====
section
/-! SUPPORT. The model's own tests. Expected numbers come from spec/95_test_vectors.md or from a word written out by hand
from R47 and R49; no number is the model's own answer. The second part holds, for every statement of
Certificates/Slice0/Obligations.lean that has hypotheses, a state and operands that meet them. -/

namespace Sys2Proof.Tests

open Sys2Proof Sys2Proof.Machine

/-! ## Well-formedness and decoding -/

/-- WellFormed's one check refuses `illegal` with an opcode that R49 assigns. -/
theorem test_wellFormed_refuses_assigned_opcodes :
    (Instr.illegal 0x01#8 0#32).wellFormed = false ∧ (Instr.illegal 0x02#8 0#32).wellFormed = false ∧
    (Instr.illegal 0x03#8 0#32).wellFormed = false ∧ (Instr.illegal 0x04#8 0#32).wellFormed = false := by decide

theorem test_wellFormed_accepts_unassigned_opcodes :
    (Instr.illegal 0x00#8 0#32).wellFormed = true ∧ (Instr.illegal 0x05#8 7#32).wellFormed = true ∧
    (Instr.illegal 0xFF#8 0#32).wellFormed = true := by decide

/-- `SEED 42` is `0x01_0000002A` (R47). -/
theorem test_decode_seed :
    decode 0b0000000100000000000000000000000000101010#40 = .seed 42#32 := by decide

theorem test_decode_extract :
    decode 0b0000001000010010001101000101011001111000#40 = .extract 0x12345678#32 := by decide

theorem test_decode_extract8 :
    decode 0b0000001100000000000000000000000000000000#40 = .extract8 0#32 := by decide

theorem test_decode_status :
    decode 0b0000010011111111111111111111111111111111#40 = .status 0xFFFFFFFF#32 := by decide

/-- The two ends of each block of illegal rows (R49, R50). -/
theorem test_decode_illegal :
    decode 0x0000000000#40 = .illegal 0x00#8 0#32 ∧ decode 0x0500000000#40 = .illegal 0x05#8 0#32 ∧
    decode 0x0600000000#40 = .illegal 0x06#8 0#32 ∧ decode 0x07FFFFFFFF#40 = .illegal 0x07#8 0xFFFFFFFF#32 ∧
    decode 0x0800000001#40 = .illegal 0x08#8 1#32 ∧ decode 0x1000000000#40 = .illegal 0x10#8 0#32 ∧
    decode 0x3F00000000#40 = .illegal 0x3F#8 0#32 ∧ decode 0x7F00000000#40 = .illegal 0x7F#8 0#32 ∧
    decode 0x8000000000#40 = .illegal 0x80#8 0#32 ∧ decode 0xFFFFFFFFFF#40 = .illegal 0xFF#8 0xFFFFFFFF#32 := by
  decide

theorem test_decodeTableWord_has_no_short_or_long_words :
    decodeTableWord 40 0x010000002A = some (.seed 42#32) ∧ decodeTableWord 40 (2 ^ 40) = none ∧
    decodeTableWord 48 0 = none := by decide

/-! ## The shared operations (95_test_vectors.md sections 2.1 to 2.3) -/

theorem test_temper :
    temper 0x80000000#32 = 0x88102204#32 ∧ temper 0xFFFFFFFF#32 = 0x6FE01BF8#32 ∧
    temper 0x12345678#32 = 0x2B7E4A2D#32 ∧ temper 0x9B0AFA27#32 = 0xD091BB5C#32 := by decide

theorem test_initWord :
    initWord 0#32 1 = 1#32 ∧ initWord 5489#32 1 = 1301868182#32 ∧ initWord 0xFFFFFFFF#32 623 = 1340202203#32 ∧
    initWord 0x80000000#32 1 = 0x580F12CB#32 := by decide

theorem test_twistWord :
    twistWord 0x80000000#32 0x00000001#32 0#32 = 0xD908B0DF#32 ∧ twistWord 0#32 0xFFFFFFFF#32 0#32 = 0xA6F74F20#32 ∧
    twistWord 0x7FFFFFFF#32 0x80000000#32 0x12345678#32 = 0x12345678#32 := by decide

/-! ## One command each -/

/-- A core with the given generator, idle, to which nothing is driven. -/
def coreWith (g : Generator) : State := { State.reset with gen := g }

/-- Words 1, 397 and 623 of generation 0 of seed 5489 (95_test_vectors.md section 2.2). -/
theorem test_seed_5489 (mt : StateVector) :
    (seedVector 5489#32 mt)[1] = 1301868182#32 ∧ (seedVector 5489#32 mt)[397] = 3183906156#32 ∧
    (seedVector 5489#32 mt)[623] = 79981964#32 := by
  rw [seedVector_getElem, seedVector_getElem, seedVector_getElem]
  decide +kernel

/-- `SEED 42` from reset answers `(OK, 0)` and leaves `idx = 624` (section 1.1). -/
theorem test_seed_from_reset :
    ∃ t, step (State.reset.withFetchWord 40 0x010000002A) = .next t ∧ t.gen.idx = 624#10 ∧
      t.phase.response? = some ⟨.ok, 0#32⟩ := ⟨_, rfl, rfl, rfl⟩

/-- The generator that `SEED 5489` leaves twists at the next extraction, which returns 3499211612 and leaves `idx = 1`,
with word 0 of the new generation 2601187879 (sections 2.4, 2.5). -/
theorem test_extract_after_seed_5489 :
    ∃ t r, exec (.extract 0#32) (coreWith (seededGenerator 5489#32)) = .next t ∧ t.phase.response? = some r ∧
      r = ⟨.ok, 3499211612#32⟩ ∧ t.gen.idx = 1#10 ∧ t.gen.mt[0] = 2601187879#32 := by
  have hn : next hardwareThreshold (seededGenerator 5489#32) = _ := next_of_twist (by decide) (by decide)
  obtain ⟨n, h⟩ := exec_of_execute (i := .extract 0#32) (s := coreWith (seededGenerator 5489#32))
    (commandExtract_of_some hn)
  refine ⟨_, _, h, rfl, ?_, rfl, ?_⟩ <;>
    simp only [seededGenerator, generation, generationFrom] <;> rw [twistVector_getElem] <;>
    simp only [dif_pos (show 0 < 623 by decide), dif_pos (show 0 < 227 by decide), Nat.zero_add, seedVector_getElem] <;>
    decide +kernel

/-- Word 227 of generation 1 of seed 5489 is made of old words 227 and 228 and NEW word 0: 1407514791; a copy-first
twist would give 3371046897 (section 2.4). -/
theorem test_twist_is_in_place (mt : StateVector) :
    (twistVector (seedVector 5489#32 mt))[227] = 1407514791#32 := by
  rw [twistVector_getElem]
  simp only [dif_pos (show 227 < 623 by decide), dif_neg (show ¬ 227 < 227 by decide), Nat.sub_self]
  rw [twistVector_getElem]
  simp only [dif_pos (show 0 < 623 by decide), dif_pos (show 0 < 227 by decide), Nat.zero_add, seedVector_getElem]
  decide +kernel

/-- With `idx = 623` there is no twist, and `idx` becomes 624 (R76). -/
theorem test_extract_takes_the_last_word :
    ∃ t, exec (.extract 0#32) (coreWith ⟨Vector.replicate 624 0x12345678#32, 623#10⟩) = .next t ∧
      t.gen.idx = 624#10 ∧ t.phase.response? = some ⟨.ok, 0x2B7E4A2D#32⟩ := by
  have hn : next hardwareThreshold ⟨Vector.replicate 624 0x12345678#32, 623#10⟩ = _ := next_of_lt (by decide)
  obtain ⟨n, h⟩ := exec_of_execute (i := .extract 0#32)
    (s := coreWith ⟨Vector.replicate 624 0x12345678#32, 623#10⟩) (commandExtract_of_some hn)
  refine ⟨_, h, rfl, ?_⟩
  rw [Vector.getElem_replicate]
  exact congrArg (fun w => some (Response.mk .ok w)) (show temper 0x12345678#32 = 0x2B7E4A2D#32 by decide)

/-- The first `EXTRACT8` after `SEED 5489` returns `0x5C`, the low byte of `0xD091BB5C` (R77). -/
theorem test_lowByte : lowByte 0xD091BB5C#32 = 0x5C#32 ∧ lowByte 0x22AE9EF6#32 = 0xF6#32 := by decide

/-- `EXTRACT8` in an unseeded core answers `(INVALID_STATE, 0)` (section 2.7). -/
theorem test_extract8_unseeded :
    ∃ t, step (State.reset.withFetchWord 40 0x0300000000) = .next t ∧ t.gen.idx = 625#10 ∧
      t.phase.response? = some ⟨.invalidState, 0#32⟩ := ⟨_, rfl, rfl, rfl⟩

/-- `STATUS` after reset answers `(OK, 625)`, whatever its data field (section 2.6). -/
theorem test_status_after_reset :
    ∃ t, step (State.reset.withFetchWord 40 0x04FFFFFFFF) = .next t ∧ t.gen.idx = 625#10 ∧
      t.phase.response? = some ⟨.ok, 0x271#32⟩ := ⟨_, rfl, rfl, rfl⟩

/-- `0x05_00000000` with `idx = 3` answers `(ILLEGAL_COMMAND, 0)` and leaves `idx = 3` (R55). -/
theorem test_illegal_command :
    ∃ t, step ((coreWith ⟨Vector.replicate 624 0#32, 3#10⟩).withFetchWord 40 0x0500000000) = .next t ∧
      t.gen.idx = 3#10 ∧ t.phase.response? = some ⟨.illegalCommand, 0#32⟩ := ⟨_, rfl, rfl, rfl⟩

/-! ## The assembler (95_test_vectors.md sections 4.2, 4.5, 1.5) -/

theorem test_assembles_seed_with_comment :
    assembleLine ['s', 'e', 'e', 'd', ' ', '4', '2', ' ', ';', 'x'] = .ok [0x010000002A#40] := by decide

theorem test_assembles_raw_word :
    assembleLine ['.', 'c', 'w', ' ', '0', 'x', '0', '2', '_', '1', '2', '3', '4', '5', '6', '7', '8'] =
      .ok [0x0212345678#40] := by decide

theorem test_assembles_kseed :
    assembleLine ['K', 'S', 'E', 'E', 'D', ' ', '7', '0', '0', '0', '0'] = .ok [0x0100001170#40] := by decide

theorem test_assembles_two_lines :
    assemble ['S', 'T', 'A', 'T', 'U', 'S', '\n', 'P', 'U', 'L', 'L', '8', ' ', '2'] =
      .ok [0x0400000000#40, 0x0300000000#40, 0x0300000000#40] := by decide

/-! ## Witnesses: states and operands that meet the hypotheses of the statements -/

/-- A core with `rst = 1` on its pins. -/
def inReset (g : Generator) (p : Phase) : State :=
  { coreWith g with phase := p, inputs := [{ PortIn.quiet with rst := true }] }

/-- A core in a phase, with the host ready for a response or not. -/
def inPhase (p : Phase) (ready : Bool) : State :=
  { State.reset with phase := p, inputs := [{ PortIn.quiet with rspReady := ready }] }

theorem witness_ResetEdgeUnseedsAndAbandons :
    (inReset ⟨Vector.replicate 624 0#32, 3#10⟩ (.presenting ⟨.ok, 3#32⟩)).pins.rst = true ∧
    ∃ t, step (inReset ⟨Vector.replicate 624 0#32, 3#10⟩ .idle) = .next t ∧ t.gen.idx = 625#10 :=
  ⟨rfl, _, rfl, rfl⟩

theorem witness_InitWordIsReducedOnce : (1 ≤ 1 ∧ 1 < 624) ∧ (1 ≤ 623 ∧ 623 < 624) ∧ 2 ≤ 2 := by decide

theorem witness_BothExtractionsAreOneStream :
    (coreWith ⟨Vector.replicate 624 0#32, 0#10⟩).gen.idx ≠ 625#10 ∧ (coreWith (seededGenerator 0#32)).gen.idx ≠ 625#10 := by
  decide

theorem witness_ExtractionReturnsWordAtCursor :
    (coreWith ⟨Vector.replicate 624 0#32, 0#10⟩).gen.idx.toNat < 624 ∧
    (coreWith ⟨Vector.replicate 624 0#32, 623#10⟩).gen.idx.toNat < 624 := by decide

theorem witness_ExtractionTwistsInPlaceFirst :
    (624 ≤ (624#10 : Cursor).toNat ∧ 624#10 ≠ 625#10) ∧ (624 ≤ (626#10 : Cursor).toNat ∧ 626#10 ≠ 625#10) ∧
    (624 ≤ (1023#10 : Cursor).toNat ∧ 1023#10 ≠ 625#10) ∧ (coreWith (seededGenerator 0#32)).gen.idx = 624#10 := by
  decide

theorem witness_UnseededExtractionFails :
    State.reset.gen.idx = 625#10 ∧
    ∃ t, exec (.extract8 0#32) State.reset = .next t ∧ t.phase.response? = some ⟨.invalidState, 0#32⟩ :=
  ⟨rfl, _, rfl, rfl⟩

theorem witness_IllegalCommandOnlyResponds :
    CommandWord.op 0x0500000001#40 ≠ 0x01#8 ∧ CommandWord.op 0x0500000001#40 ≠ 0x02#8 ∧
    CommandWord.op 0x0500000001#40 ≠ 0x03#8 ∧ CommandWord.op 0x0500000001#40 ≠ 0x04#8 := by decide

theorem witness_FailingCommandWritesNoState :
    ∃ t r, exec (.illegal 0xFF#8 0#32) State.reset = .next t ∧ t.phase.response? = some r ∧ r.status ≠ .ok :=
  ⟨_, _, rfl, rfl, by decide⟩

theorem witness_DataIsZeroOnErrorAndSeed :
    (∃ t r, exec (.extract 9#32) State.reset = .next t ∧ t.phase.response? = some r ∧ r.status ≠ .ok) ∧
    (∃ t r, exec (.seed 9#32) State.reset = .next t ∧ t.phase.response? = some r ∧ isSeed (.seed 9#32) = true) :=
  ⟨⟨_, _, rfl, rfl, by decide⟩, ⟨_, _, rfl, rfl, rfl⟩⟩

theorem witness_ResponseWidths :
    (Instr.extract8 0#32).mnemonic = .EXTRACT8 ∧ (Instr.status 0#32).mnemonic = .STATUS ∧
    (Instr.seed 0#32).mnemonic = .SEED ∧ (Instr.illegal 0#8 0#32).mnemonic = .ILLEGAL := by decide

theorem witness_DataFieldIsIgnoredExceptBySeed :
    CommandWord.op 0x0200000000#40 = CommandWord.op 0x0212345678#40 ∧ CommandWord.op 0x0200000000#40 ≠ 0x01#8 := by
  decide

theorem witness_DecodeInvertsEncode :
    (Instr.seed 5489#32).wellFormed = true ∧ (Instr.illegal 0x80#8 1#32).wellFormed = true := by decide

theorem witness_EveryWordBelongsToOneTableRow :
    ∃ r ∈ opcodeTable, r.selects 0x07FFFFFFFF#40 = true := by decide

theorem witness_OpcodeMap : 0x05 ≤ (0x05#8 : Opcode).toNat ∧ 0x05 ≤ (0xFF#8 : Opcode).toNat := by decide

theorem witness_StepRunsTheAcceptedCommand :
    ((State.reset.presentCommand 0x0400000000#40).pins.rst = false ∧
      (State.reset.presentCommand 0x0400000000#40).pins.cmdValid = true ∧
      (State.reset.presentCommand 0x0400000000#40).outputs.cmdReady = true) ∧
    ((inPhase .idle true).inputs = [{ PortIn.quiet with rspReady := true }] ∧
      ¬ (({ PortIn.quiet with rspReady := true } : PortIn).rst = false ∧
        ({ PortIn.quiet with rspReady := true } : PortIn).cmdValid = true ∧
        (inPhase .idle true).outputs.cmdReady = true)) :=
  ⟨⟨rfl, rfl, rfl⟩, rfl, by decide⟩

theorem witness_PlacedWordRunsNext : 0 < 2 ^ 40 ∧ 0xFFFFFFFFFF < 2 ^ 40 := by decide

theorem witness_IdleCoreHoldsState :
    State.reset.phase = .idle ∧ State.reset.pins.rst = false ∧ State.reset.pins.cmdValid = false := ⟨rfl, rfl, rfl⟩

theorem witness_OneCommandInFlight :
    (∃ t, (inPhase (.busy 0 ⟨.ok, 7#32⟩) false).phase.response? = some ⟨.ok, 7#32⟩ ∧
      (inPhase (.busy 0 ⟨.ok, 7#32⟩) false).pins.rst = false ∧ step (inPhase (.busy 0 ⟨.ok, 7#32⟩) false) = .next t) ∧
    (∃ t, (inPhase (.presenting ⟨.ok, 7#32⟩) true).phase.response? = some ⟨.ok, 7#32⟩ ∧
      (inPhase (.presenting ⟨.ok, 7#32⟩) true).pins.rst = false ∧
      step (inPhase (.presenting ⟨.ok, 7#32⟩) true) = .next t) :=
  ⟨⟨_, rfl, rfl, step_eq_next_edge _⟩, ⟨_, rfl, rfl, step_eq_next_edge _⟩⟩

theorem witness_OneCommandInFlight_accepts :
    ∃ t, (State.reset.presentCommand 0x010000002A#40).acceptedNow = some (.seed 42#32) ∧
      step (State.reset.presentCommand 0x010000002A#40) = .next t := ⟨_, rfl, step_eq_next_edge _⟩

theorem witness_ResponseHeldUntilTaken :
    ((inPhase (.presenting ⟨.ok, 7#32⟩) false).pins.rst = false ∧
      (inPhase (.presenting ⟨.ok, 7#32⟩) false).pins.rspReady = false) ∧
    ((inPhase (.presenting ⟨.ok, 7#32⟩) true).pins.rst = false ∧
      (inPhase (.presenting ⟨.ok, 7#32⟩) true).pins.rspReady = true) := ⟨⟨rfl, rfl⟩, rfl, rfl⟩

theorem witness_NoResponseCarriesTheFourthCode :
    (inPhase (.presenting ⟨.illegalCommand, 0#32⟩) false).outputs.rspValid = true := rfl

theorem witness_ResponseComesAfterItsLatency (lat : Nat) :
    ∃ t, (State.reset.presentCommand 0x010000002A#40).acceptedNow = some (.seed 42#32) ∧
      step (State.reset.presentCommand 0x010000002A#40) = .next t ∧ t.noReset lat :=
  ⟨_, rfl, step_eq_next_edge _, State.noReset_of_inputs_nil (by rw [State.edge_inputs]; rfl) lat⟩

theorem witness_UntakenResponseBlocksThePort :
    let s : State := { State.reset with phase := .presenting ⟨.ok, 7#32⟩ }
    s.phase = .presenting ⟨.ok, 7#32⟩ ∧ s.noReset 5 ∧ ∀ k, k < 5 → (s.run k).pins.rspReady = false :=
  ⟨rfl, State.noReset_of_inputs_nil rfl 5, fun k _ => by
    rw [State.pins_of_inputs_nil (State.run_inputs_of_nil rfl k)]; rfl⟩

theorem witness_ReadyHostGetsTheResponse :
    let s : State := { State.reset with
      phase := .busy 0 ⟨.ok, 7#32⟩, inputs := [PortIn.quiet, { PortIn.quiet with rspReady := true }] }
    s.phase = .busy 0 ⟨.ok, 7#32⟩ ∧ s.noReset (0 + 1 + 0 + 1) ∧ (s.run (0 + 1 + 0)).pins.rspReady = true := by
  refine ⟨rfl, fun k hk => ?_, rfl⟩
  match k, hk with
  | 0, _ => rfl
  | 1, _ => rfl

theorem witness_CursorStaysInRange :
    State.reset.gen.CursorInRange ∧ ∃ t, step State.reset = .next t :=
  ⟨by unfold Generator.CursorInRange; decide, _, step_eq_next_edge _⟩

theorem witness_StepKeepsTheInvariant :
    (coreWith (seededGenerator 42#32)).Inv ∧ ∃ t, step (coreWith (seededGenerator 42#32)) = .next t :=
  ⟨⟨.inr ⟨42#32, 0, rfl, fun _ => rfl, fun h => absurd h (by decide)⟩, fun _ h => by cases h⟩, _, step_eq_next_edge _⟩

theorem witness_OnlyListedEventsWriteTheGenerator :
    ∃ t, step (State.reset.withFetchWord 40 0x0100000001) = .next t ∧ t.gen.mt ≠ State.reset.gen.mt ∧
      t.gen.idx ≠ State.reset.gen.idx := by
  refine ⟨_, rfl, fun h => ?_, by decide⟩
  have h0 := (seedVector_getElem 1#32 State.reset.gen.mt 0 (by decide)).symm.trans
    (congrArg (fun m : StateVector => m[0]) h)
  exact absurd h0 (by decide)

theorem witness_commands_without_seed :
    (∀ i ∈ [Instr.extract 0#32, .status 1#32, .extract8 2#32], isSeed i = false) ∧
    1 ≤ [Instr.extract 0#32, .status 1#32, .extract8 2#32].countP isExtraction := by decide

theorem witness_RepeatedCommands :
    (execute (.illegal 0#8 0#32) State.reset.gen).2.status ≠ .ok := by decide

theorem witness_PortRefinesTransactions : State.reset.noReset 9 := State.noReset_of_inputs_nil rfl 9

theorem witness_UnseededContentsAreNeverSeen :
    State.reset.SameButUnseededContents (coreWith ⟨Vector.replicate 624 1#32, unseeded⟩) :=
  ⟨rfl, .inl rfl, rfl, rfl, rfl⟩

theorem witness_AssemblerEncodesCommands :
    0xFFFFFFFF < 2 ^ 32 ∧ 2 ^ 32 ≤ 0x100000000 ∧ 0xFFFFFFFFFF < 2 ^ 40 := by decide

theorem witness_PseudoInstructionsExpand : 70000 % 2 ^ 16 = 4464 % 2 ^ 16 := by decide

theorem witness_DisassemblyForms :
    CommandWord.op 0x010000002A#40 = 0x01#8 ∧
    (CommandWord.op 0x0200000000#40 = 0x02#8 ∧ CommandWord.data 0x0200000000#40 = 0#32) ∧
    (CommandWord.op 0x0300000000#40 = 0x03#8 ∧ CommandWord.data 0x0300000000#40 = 0#32) ∧
    (CommandWord.op 0x0400000000#40 = 0x04#8 ∧ CommandWord.data 0x0400000000#40 = 0#32) ∧
    (CommandWord.op 0x0212345678#40 ≠ 0x01#8 ∧ CommandWord.data 0x0212345678#40 ≠ 0#32) ∧
    (CommandWord.op 0x0000000000#40 ≠ 0x01#8 ∧ CommandWord.op 0x0000000000#40 ≠ 0x02#8 ∧
      CommandWord.op 0x0000000000#40 ≠ 0x03#8 ∧ CommandWord.op 0x0000000000#40 ≠ 0x04#8) := by decide

end Sys2Proof.Tests
end

section
/-! PROOFS. Rules for the generator: the cursor after `NEXT`, what each kind of command makes of the generator, and
the soundness of generators and responses. -/

namespace Sys2Proof.Machine

theorem unseeded_toNat : unseeded.toNat = 625 := rfl
theorem seededIdx_toNat : seededIdx.toNat = 624 := rfl

/-- A cursor at a position of the state vector does not wrap when it moves on (R18, R75). -/
theorem cursor_add_one_toNat {c : Cursor} (h : c.toNat < 624) : (c + 1#10).toNat = c.toNat + 1 := by
  rw [BitVec.toNat_add, BitVec.toNat_ofNat]
  omega

/-- `zext_32(y[7:0])` is `y AND 0xFF` (R77, R78). -/
theorem lowByte_eq_and (y : Word) : lowByte y = y &&& 0xFF#32 := by
  apply BitVec.eq_of_toNat_eq
  have hmask := Nat.and_two_pow_sub_one_eq_mod y.toNat 8
  have hmod : y.toNat % 2 ^ 8 < 2 ^ 32 := by omega
  simp only [lowByte, BitVec.toNat_setWidth, BitVec.extractLsb'_toNat, Nat.shiftRight_zero, BitVec.toNat_and,
    BitVec.toNat_ofNat, Nat.mod_eq_of_lt hmod]
  exact hmask.symm

/-- The generator after a `NEXT` that succeeds: either only the cursor moved, or `MT` was twisted and word 0 taken
(R75). -/
theorem next_some_cases {t : TwistThreshold} {g g' : Generator} {y : Word} (h : next t g = some (g', y)) :
    (g.idx.toNat < t.value ∧ g'.mt = g.mt ∧ g'.idx.toNat = g.idx.toNat + 1) ∨
    (t.value ≤ g.idx.toNat ∧ g.idx ≠ unseeded ∧ g' = { mt := twistVector g.mt, idx := 1#10 }) := by
  rcases next_cases t g with ⟨hlt, hn⟩ | ⟨_, hn⟩ | ⟨hge, hu, hn⟩
  · cases hn.symm.trans h
    exact .inl ⟨hlt, rfl, cursor_add_one_toNat (TwistThreshold.lt_of_lt_value hlt)⟩
  · cases hn.symm.trans h
  · cases hn.symm.trans h
    exact .inr ⟨hge, hu, rfl⟩

/-- `NEXT` leaves the cursor at 1 to 624 (R24). -/
theorem next_some_idx {t : TwistThreshold} {g g' : Generator} {y : Word} (h : next t g = some (g', y)) :
    1 ≤ g'.idx.toNat ∧ g'.idx.toNat ≤ 624 := by
  rcases next_some_cases h with ⟨hlt, _, hidx⟩ | ⟨_, _, rfl⟩
  · have := TwistThreshold.lt_of_lt_value hlt
    omega
  · exact (by decide : 1 ≤ (1#10 : Cursor).toNat ∧ (1#10 : Cursor).toNat ≤ 624)

/-- The seed loop reads no word that it has not written (R62). -/
theorem seedVector_eq_generation_zero (v : Word) (mt : StateVector) : seedVector v mt = generation v 0 := by
  apply Vector.ext
  intro j hj
  rw [generation, generationFrom, seedVector_getElem, seedVector_getElem]

theorem generation_succ (v : Word) (n : Nat) : generation v (n + 1) = twistVector (generation v n) := rfl

/-- `SEED v` leaves the same generator from every generator (R62, R64). -/
theorem execute_seed (v : Word) (g : Generator) : execute (.seed v) g = (seededGenerator v, ⟨.ok, 0#32⟩) := by
  rw [execute, commandSeed_eq, seedVector_eq_generation_zero, seededGenerator]

/-- The three ways in which a command leaves the generator: seeded, moved on by `NEXT`, or as it was. -/
theorem execute_gen_cases (i : Instr) (g : Generator) :
    (∃ v, i = .seed v ∧ (execute i g).1 = seededGenerator v) ∨
    (isExtraction i = true ∧ ∃ y, next hardwareThreshold g = some ((execute i g).1, y)) ∨
    (execute i g).1 = g := by
  rcases execute_cases i g with ⟨v, rfl, _⟩ | ⟨hx, g', y, _, hn, _, he⟩ | ⟨_, _, he⟩ | ⟨_, _, he⟩ | ⟨_, _, _, he⟩
  · exact .inl ⟨v, rfl, by rw [execute_seed]⟩
  · exact .inr (.inl ⟨hx, y, by rw [he, hn]⟩)
  all_goals exact .inr (.inr (by rw [he]))

/-- The data of an error response is 0 (R53). -/
theorem execute_response_sound (i : Instr) (g : Generator) : (execute i g).2.Sound := by
  unfold Response.Sound
  rcases execute_cases i g with ⟨_, _, he⟩ | ⟨_, _, _, _, _, _, he⟩ | ⟨_, _, he⟩ | ⟨_, _, he⟩ | ⟨_, _, _, he⟩ <;>
    simp [he]

/-- `INVALID_STATE` is the answer of an unseeded core alone, which stays unseeded (R86, R87). -/
theorem execute_idx_of_invalidState {i : Instr} {g : Generator} (h : (execute i g).2.status = .invalidState) :
    (execute i g).1.idx = unseeded := by
  rcases execute_cases i g with ⟨_, _, he⟩ | ⟨_, _, _, _, _, _, he⟩ | ⟨_, hu, he⟩ | ⟨_, _, he⟩ | ⟨_, _, _, he⟩
  case inr.inr.inl => rw [he]; exact hu
  all_goals rw [he] at h; cases h

theorem seededGenerator_sound (v : Word) : (seededGenerator v).Sound :=
  .inr ⟨v, 0, rfl, fun _ => rfl, fun h => absurd h (Nat.lt_irrefl 0)⟩

/-- `NEXT` keeps `MT` a generation of some seed. A generation of which no word has been taken has its cursor at the
threshold, so `NEXT` moves on to the next generation (R28, R72). -/
theorem next_sound {g g' : Generator} {y : Word} (h : next hardwareThreshold g = some (g', y)) (hg : g.Sound) :
    g'.Sound := by
  have hrange := next_some_idx h
  rcases next_some_cases h with ⟨hlt, hmt, -⟩ | ⟨-, hu, rfl⟩
  · have hlt : g.idx.toNat < 624 := hlt
    rcases hg with hu | ⟨v, n, hgen, hzero, -⟩
    · rw [hu, unseeded_toNat] at hlt
      omega
    · have hn : n ≠ 0 := fun h0 => by
        rw [hzero h0, seededIdx_toNat] at hlt
        omega
      exact .inr ⟨v, n, hmt.trans hgen, fun h0 => absurd h0 hn, fun _ => hrange⟩
  · rcases hg with hu' | ⟨v, n, hgen, -⟩
    · exact absurd hu' hu
    · exact .inr ⟨v, n + 1, by rw [hgen, generation_succ], fun h0 => absurd h0 n.succ_ne_zero, fun _ => hrange⟩

theorem execute_sound (i : Instr) {g : Generator} (hg : g.Sound) : (execute i g).1.Sound := by
  rcases execute_gen_cases i g with ⟨v, _, he⟩ | ⟨_, y, hn⟩ | he
  · rw [he]
    exact seededGenerator_sound v
  · exact next_sound hn hg
  · rwa [he]

theorem execute_cursorInRange (i : Instr) {g : Generator} (hg : g.CursorInRange) :
    (execute i g).1.CursorInRange := by
  rcases execute_gen_cases i g with ⟨v, _, he⟩ | ⟨_, y, hn⟩ | he
  · rw [he]
    exact (by decide : seededIdx.toNat ≤ 625)
  · exact (next_some_idx hn).2.trans (by decide)
  · rwa [he]

end Sys2Proof.Machine
end

section
/-! PROOFS. Rules for one edge: what it makes of the generator and of the response in flight, and the induction over
the edges of a run. -/

namespace Sys2Proof.Machine

/-- The three ways in which an edge leaves the generator: reset, as the accepted command left it, or as it was. -/
theorem step_gen_cases {s t : State} (h : step s = .next t) :
    (s.pins.rst = true ∧ t.gen.idx = unseeded) ∨
    (∃ i, s.acceptedNow = some i ∧ t.gen = (execute i s.gen).1) ∨
    t.gen = s.gen := by
  rcases step_cases h with ⟨hr, rfl⟩ | ⟨_, ha, _, rfl⟩ | ⟨_, _, rfl⟩
  · exact .inl ⟨hr, rfl⟩
  · exact .inr (.inl ⟨_, by rw [State.acceptedNow, if_pos ha], rfl⟩)
  · exact .inr (.inr rfl)

/-- An edge that accepts no command brings no response into flight: it can only drop one (R107, R108). -/
theorem Phase.response?_of_advance {b : Bool} {p : Phase} {r : Response} (h : (p.advance b).response? = some r) :
    p.response? = some r := by
  match p, b with
  | .idle, _ => exact h
  | .busy 0 _, _ => exact h
  | .busy (_ + 1) _, _ => exact h
  | .presenting _, true => cases h
  | .presenting _, false => exact h

/-- What holds at the start of a run and is kept by every step holds at every edge of the run. -/
theorem State.run_induction {P : State → Prop} (hstep : ∀ s t, P s → step s = .next t → P t) (n : Nat) {s : State}
    (hs : P s) : P (s.run n) := by
  induction n generalizing s with
  | zero => exact hs
  | succ n ih => exact ih (hstep s s.edge hs (step_eq_next_edge s))

theorem step_cursorInRange {s t : State} (hs : s.gen.CursorInRange) (h : step s = .next t) :
    t.gen.CursorInRange := by
  rcases step_gen_cases h with ⟨_, hu⟩ | ⟨i, _, he⟩ | he
  · rw [Generator.CursorInRange, hu, unseeded_toNat]
  · rw [he]
    exact execute_cursorInRange i hs
  · rwa [he]

theorem step_gen_sound {s t : State} (hs : s.gen.Sound) (h : step s = .next t) : t.gen.Sound := by
  rcases step_gen_cases h with ⟨_, hu⟩ | ⟨i, _, he⟩ | he
  · exact .inl hu
  · rw [he]
    exact execute_sound i hs
  · rwa [he]

theorem State.reset_inv : State.reset.Inv :=
  ⟨.inl rfl, fun _ h => by cases h⟩

/-- Every step keeps the invariant. A response comes into flight only at the edge that accepts its command, and the
generator is held until it has left. -/
theorem step_inv {s t : State} (hs : s.Inv) (h : step s = .next t) : t.Inv := by
  refine ⟨step_gen_sound hs.1 h, fun r hr => ?_⟩
  obtain ⟨-, hflight⟩ := hs
  rcases step_cases h with ⟨_, rfl⟩ | ⟨_, _, _, rfl⟩ | ⟨_, _, rfl⟩
  · cases hr
  · cases hr
    exact ⟨execute_response_sound _ _, execute_idx_of_invalidState⟩
  · exact hflight r (Phase.response?_of_advance hr)

end Sys2Proof.Machine
end

section
/-! PROOFS. The state of the core after reset, the invariant, and what may write the generator. -/

namespace Sys2Proof.Proofs

open Sys2Proof Sys2Proof.Machine

/-- Settles O1: `State.reset` is written out. -/
theorem resetLeavesCursorUnseeded : Obligations.ResetLeavesCursorUnseeded :=
  ⟨rfl, rfl, rfl⟩

/-- Settles O35: the core is unseeded and nothing is in flight. -/
theorem resetMeetsTheInvariant : Obligations.ResetMeetsTheInvariant :=
  State.reset_inv

/-- Settles O36, by what one edge can do. -/
theorem stepKeepsTheInvariant : Obligations.StepKeepsTheInvariant :=
  fun _ _ => step_inv

/-- Settles O34: the step lemma, and the induction over the edges of a run from reset. -/
theorem cursorStaysInRange : Obligations.CursorStaysInRange := by
  refine ⟨fun _ _ => step_cursorInRange, fun inputs n => ?_⟩
  refine State.run_induction (P := fun s => s.gen.CursorInRange) (fun _ _ => step_cursorInRange) n ?_
  exact (by decide : unseeded.toNat ≤ 625)

/-- Settles O37, by the ways in which an edge, and in it a command, leaves the generator. -/
theorem onlyListedEventsWriteTheGenerator : Obligations.OnlyListedEventsWriteTheGenerator := by
  intro s t h
  rcases step_gen_cases h with ⟨hr, _⟩ | ⟨i, ha, he⟩ | he
  · exact ⟨fun _ => .inl hr, fun _ => .inl hr⟩
  · rcases execute_gen_cases i s.gen with ⟨v, rfl, _⟩ | ⟨hx, y, hn⟩ | hsame
    · exact ⟨fun _ => .inr ⟨_, ha, .inl rfl⟩, fun _ => .inr ⟨_, ha, .inl rfl⟩⟩
    · refine ⟨fun hmt => .inr ⟨i, ha, .inr ⟨hx, ?_⟩⟩, fun _ => .inr ⟨i, ha, .inr hx⟩⟩
      rcases next_some_cases hn with ⟨_, hkept, _⟩ | ⟨hge, hu, _⟩
      · exact absurd (by rw [he, hkept]) hmt
      · exact ⟨hge, hu⟩
    · have hgen : t.gen = s.gen := he.trans hsame
      exact ⟨fun hmt => absurd (by rw [hgen]) hmt, fun hidx => absurd (by rw [hgen]) hidx⟩
  · exact ⟨fun hmt => absurd (by rw [he]) hmt, fun hidx => absurd (by rw [he]) hidx⟩

end Sys2Proof.Proofs
end

section
/-! PROOFS. Extraction: the word that it returns, and the position in the output stream of a seed. -/

namespace Sys2Proof.Machine

/-- Where the stream of `SEED v` stands after `k` extractions: after none the cursor is 624, after the `k`-th it is
`((k-1) mod 624) + 1`, and `MT` is generation `ceil(k / 624)` (R29). -/
def streamGenerator (v : Word) (k : Nat) : Generator :=
  { mt := generation v ((k + 623) / 624), idx := BitVec.ofNat 10 ((k + 623) % 624 + 1) }

/-- The word that the extraction after `k` others returns, as R29 gives it. -/
def streamWord (v : Word) (k : Nat) : Word :=
  temper ((generation v ((k + 624) / 624))[k % 624]'(Nat.mod_lt _ (by decide)))

theorem streamGenerator_zero (v : Word) : streamGenerator v 0 = seededGenerator v := rfl

@[simp] theorem streamGenerator_mt (v : Word) (k : Nat) :
    (streamGenerator v k).mt = generation v ((k + 623) / 624) := rfl

theorem streamGenerator_idx_toNat (v : Word) (k : Nat) :
    (streamGenerator v k).idx.toNat = (k + 623) % 624 + 1 := by
  rw [streamGenerator, BitVec.toNat_ofNat]
  omega

theorem streamGenerator_idx_ne_unseeded (v : Word) (k : Nat) : (streamGenerator v k).idx ≠ unseeded := by
  intro h
  have hidx := streamGenerator_idx_toNat v k
  rw [h, unseeded_toNat] at hidx
  omega

theorem streamGenerator_eq {v : Word} {k : Nat} {g : Generator} (hmt : g.mt = generation v ((k + 623) / 624))
    (hidx : g.idx.toNat = (k + 623) % 624 + 1) : g = streamGenerator v k := by
  obtain ⟨mt, idx⟩ := g
  rw [streamGenerator, Generator.mk.injEq]
  exact ⟨hmt, BitVec.eq_of_toNat_eq (hidx.trans (streamGenerator_idx_toNat v k).symm)⟩

/-- One pull of the stream: it twists exactly when the words of a generation are used up (R29, R72). -/
theorem next_streamGenerator (v : Word) (k : Nat) :
    next hardwareThreshold (streamGenerator v k) = some (streamGenerator v (k + 1), streamWord v k) := by
  have hidx := streamGenerator_idx_toNat v k
  by_cases hk : k % 624 = 0
  · have hgen : (k + 624) / 624 = (k + 623) / 624 + 1 := by omega
    have hge : hardwareThreshold.value ≤ (streamGenerator v k).idx.toNat :=
      (by omega : 624 ≤ (streamGenerator v k).idx.toNat)
    have hnext : { mt := twistVector (streamGenerator v k).mt, idx := 1#10 } = streamGenerator v (k + 1) :=
      streamGenerator_eq (by rw [Nat.add_assoc, hgen]; rfl) (by omega : (k + 1 + 623) % 624 + 1 = 1).symm
    rw [next_of_twist hge (streamGenerator_idx_ne_unseeded v k), hnext]
    simp only [streamWord, hk, hgen, generation_succ, streamGenerator_mt]
  · have hgen : (k + 624) / 624 = (k + 623) / 624 := by omega
    have hpos : (streamGenerator v k).idx.toNat = k % 624 := by omega
    have hlt : (streamGenerator v k).idx.toNat < 624 := by omega
    have hnext : (takeWord _ hlt).1 = streamGenerator v (k + 1) :=
      streamGenerator_eq (by rw [Nat.add_assoc, hgen]; rfl)
        (by rw [takeWord_idx, cursor_add_one_toNat hlt]; omega)
    have hword : (takeWord _ hlt).2 = streamWord v k := by
      simp only [takeWord_word, streamWord, hpos, hgen, streamGenerator_mt]
    rw [next_of_lt hlt, ← hnext, ← hword]

/-- A command that is not `SEED` moves the stream on by one if it is an extraction, else not at all. -/
theorem execute_streamGenerator (v : Word) (k : Nat) {i : Instr} (hi : isSeed i = false) :
    (execute i (streamGenerator v k)).1 = streamGenerator v (if isExtraction i then k + 1 else k) := by
  cases i with
  | seed _ => cases hi
  | extract _ => exact congrArg Prod.fst (commandExtract_of_some (next_streamGenerator v k))
  | extract8 _ => exact congrArg Prod.fst (commandExtract8_of_some (next_streamGenerator v k))
  | status _ => rfl
  | illegal _ _ => rfl

theorem executeAll_cons_gen (i : Instr) (is : List Instr) (g : Generator) :
    (executeAll (i :: is) g).1 = (executeAll is (execute i g).1).1 := rfl

theorem executeAll_streamGenerator (v : Word) (k : Nat) {is : List Instr} (his : ∀ i ∈ is, isSeed i = false) :
    (executeAll is (streamGenerator v k)).1 = streamGenerator v (k + is.countP isExtraction) := by
  induction is generalizing k with
  | nil => rfl
  | cons i is ih =>
    obtain ⟨hi, htail⟩ := List.forall_mem_cons.1 his
    rw [executeAll_cons_gen, execute_streamGenerator v k hi, ih _ htail, List.countP_cons]
    congr 1
    split <;> omega

/-- Only the number of extractions since `SEED v` counts (R29, R40). -/
theorem executeAll_seed (v : Word) {is : List Instr} (his : ∀ i ∈ is, isSeed i = false) (g : Generator) :
    (executeAll (.seed v :: is) g).1 = streamGenerator v (is.countP isExtraction) := by
  rw [executeAll_cons_gen, execute_seed, ← streamGenerator_zero, executeAll_streamGenerator v 0 his, Nat.zero_add]

end Sys2Proof.Machine

namespace Sys2Proof.Proofs

open Sys2Proof Sys2Proof.Machine

/-- Settles O6, by the rule for `NEXT` below the threshold. -/
theorem extractionReturnsWordAtCursor : Obligations.ExtractionReturnsWordAtCursor := by
  intro d s h
  have hnext : next hardwareThreshold s.gen = some (takeWord s.gen h) := next_of_lt h
  obtain ⟨n, hx⟩ := exec_of_execute (i := .extract d) (commandExtract_of_some hnext)
  obtain ⟨n', hx8⟩ := exec_of_execute (i := .extract8 d) (commandExtract8_of_some hnext)
  rw [lowByte_eq_and] at hx8
  exact ⟨_, n, n', cursor_add_one_toNat h, hx, hx8⟩

/-- Settles O39: after `SEED v` the generator is that of the stream at the number of extractions. -/
theorem positionInTheOutputStream : Obligations.PositionInTheOutputStream := by
  refine ⟨fun v is g his hk => ?_, fun v d is g his => ?_⟩
  · rw [executeAll_seed v his, streamGenerator_idx_toNat]
    exact ⟨by omega, rfl⟩
  · have hnext := next_streamGenerator v (is.countP isExtraction)
    rw [executeAll_seed v his]
    refine ⟨congrArg Prod.snd (commandExtract_of_some hnext), ?_⟩
    exact (congrArg Prod.snd (commandExtract8_of_some hnext)).trans (by rw [lowByte_eq_and]; rfl)

end Sys2Proof.Proofs
end

section
/-! PROOFS. What cannot be seen: the contents of an unseeded core, and one core from another. -/

namespace Sys2Proof.Machine

theorem State.edge_of_reset {s : State} (h : s.pins.rst = true) : s.edge = s.sampled.resetEdge :=
  State.edge_of_step (step_of_reset h)

/-- The edge that accepts a command, with the latency that its response waits for. -/
theorem State.edge_of_accepts {s : State} (h : s.accepts = true) :
    s.edge = { s.sampled with
      gen := (execute (decode s.pins.word) s.gen).1
      phase := .busy (Config.extraLatency (commandLatency (decode s.pins.word) s.gen) s.gen.idx)
        (execute (decode s.pins.word) s.gen).2 } :=
  State.edge_of_step ((step_of_accepts h).trans (exec_eq_execute _ _))

theorem State.edge_of_waits {s : State} (hr : s.pins.rst = false) (ha : s.accepts = false) :
    s.edge = s.sampled.waitEdge s.pins :=
  State.edge_of_step (step_of_waits hr ha)

/-- `State.SameButUnseededContents` on the generator alone (R26). -/
def Generator.SameButUnseeded (g g' : Generator) : Prop :=
  g.idx = g'.idx ∧ (g.idx = unseeded ∨ g.mt = g'.mt)

theorem State.sameButUnseededContents_iff {s t : State} :
    s.SameButUnseededContents t ↔
      s.gen.SameButUnseeded t.gen ∧ s.phase = t.phase ∧ s.inputs = t.inputs ∧ s.freeIndex = t.freeIndex :=
  and_assoc.symm

theorem Generator.SameButUnseeded.refl (g : Generator) : g.SameButUnseeded g :=
  ⟨rfl, .inr rfl⟩

theorem Generator.SameButUnseeded.eq_or_unseeded {g g' : Generator} (h : g.SameButUnseeded g') :
    g = g' ∨ g.idx = unseeded ∧ g'.idx = unseeded := by
  obtain ⟨mt, idx⟩ := g
  obtain ⟨mt', idx'⟩ := g'
  obtain ⟨rfl, rfl | rfl⟩ := h
  · exact .inr ⟨rfl, rfl⟩
  · exact .inl rfl

/-- An unseeded core's answer does not read `MT`, and `SEED`, the one command that writes it, writes all of it
(R62, R87). -/
theorem Generator.SameButUnseeded.execute_congr {g g' : Generator} (h : g.SameButUnseeded g') (i : Instr) :
    (execute i g).1.SameButUnseeded (execute i g').1 ∧ (execute i g).2 = (execute i g').2 := by
  rcases h.eq_or_unseeded with rfl | ⟨hu, hu'⟩
  · exact ⟨.refl _, rfl⟩
  cases i with
  | seed v =>
    rw [execute_seed, execute_seed]
    exact ⟨.refl _, rfl⟩
  | extract d =>
    rw [execute, execute, commandExtract_of_none (next_of_unseeded hu),
      commandExtract_of_none (next_of_unseeded hu')]
    exact ⟨h, rfl⟩
  | extract8 d =>
    rw [execute, execute, commandExtract8_of_none (next_of_unseeded hu),
      commandExtract8_of_none (next_of_unseeded hu')]
    exact ⟨h, rfl⟩
  | status d => exact ⟨h, by rw [execute, execute, commandStatus_eq, commandStatus_eq, h.1]⟩
  | illegal op d => exact ⟨h, rfl⟩

/-- A latency parameter is chosen by the command and the cursor (R110, log entry 3). -/
theorem commandLatency_congr {g g' : Generator} (h : g.idx = g'.idx) (i : Instr) :
    commandLatency i g = commandLatency i g' := by
  have hextraction : extractionLatency g = extractionLatency g' := by
    rw [extractionLatency, extractionLatency, extractionTwists, extractionTwists, h]
  cases i with
  | seed _ => rfl
  | extract _ => exact hextraction
  | extract8 _ => exact hextraction
  | status _ => rfl
  | illegal _ _ => rfl

section
variable {s t : State} (h : s.SameButUnseededContents t)
include h

theorem State.SameButUnseededContents.pins : s.pins = t.pins := by
  obtain ⟨_, _, _, hinputs, _⟩ := h
  rw [State.pins, State.pins, hinputs]

theorem State.SameButUnseededContents.cmdReady : s.cmdReady = t.cmdReady := by
  obtain ⟨_, _, hphase, _, _⟩ := id h
  rw [State.cmdReady, State.cmdReady, hphase, h.pins]

theorem State.SameButUnseededContents.accepts : s.accepts = t.accepts := by
  rw [State.accepts, State.accepts, h.cmdReady, h.pins]

theorem State.SameButUnseededContents.presented : s.presented = t.presented := by
  obtain ⟨_, _, hphase, _, _⟩ := id h
  rw [State.presented, State.presented, hphase, h.pins]

theorem State.SameButUnseededContents.outputs : s.outputs = t.outputs := by
  obtain ⟨_, _, _, _, hfree⟩ := id h
  rw [State.outputs, State.outputs, h.presented, h.cmdReady, hfree]

theorem State.SameButUnseededContents.takenNow : s.takenNow = t.takenNow := by
  rw [State.takenNow, State.takenNow, h.pins, h.presented]

theorem State.SameButUnseededContents.acceptedNow : s.acceptedNow = t.acceptedNow := by
  rw [State.acceptedNow, State.acceptedNow, h.accepts, h.pins]

/-- The relation is kept by every edge: both cores do the same, and a reset leaves the same words in both, as it reads
them at the same `freeIndex` (log entry 2). -/
theorem State.SameButUnseededContents.edge : s.edge.SameButUnseededContents t.edge := by
  have hpins := h.pins
  have haccepts := h.accepts
  obtain ⟨hgen, hphase, hinputs, hfree⟩ := State.sameButUnseededContents_iff.1 h
  rw [State.sameButUnseededContents_iff]
  cases hr : s.pins.rst with
  | true =>
    rw [State.edge_of_reset hr, State.edge_of_reset (hpins ▸ hr)]
    exact ⟨⟨rfl, .inl rfl⟩, rfl, congrArg List.tail hinputs, congrArg (· + 1) hfree⟩
  | false =>
    cases ha : s.accepts with
    | true =>
      obtain ⟨hgen', hresponse⟩ := hgen.execute_congr (decode s.pins.word)
      rw [State.edge_of_accepts ha, State.edge_of_accepts (haccepts ▸ ha), ← hpins, ← commandLatency_congr hgen.1,
        ← hgen.1, ← hresponse]
      exact ⟨hgen', rfl, congrArg List.tail hinputs, congrArg (· + 1) hfree⟩
    | false =>
      rw [State.edge_of_waits hr ha, State.edge_of_waits (hpins ▸ hr) (haccepts ▸ ha), ← hpins]
      exact ⟨hgen, congrArg (Phase.advance _) hphase, congrArg List.tail hinputs, congrArg (· + 1) hfree⟩

end

theorem State.run_succ_eq_comp (n : Nat) : State.run (n + 1) = State.run n ∘ State.edge := rfl

/-- An edge of one core's clock is an edge of that core, and of no other (R22). -/
theorem stepCore_eq (k : Nat) (cores : List State) : stepCore k cores = .next (cores.modify k State.edge) := by
  rw [stepCore]
  cases hk : cores[k]? with
  | none => simp only [List.modify_eq_self (List.getElem?_eq_none_iff.1 hk)]
  | some s => simp only [step_eq_next_edge, List.modify_eq_set_getElem?, hk, Option.map_eq_map, Option.map_some,
      Option.getD_some]

end Sys2Proof.Machine

namespace Sys2Proof.Proofs

open Sys2Proof Sys2Proof.Machine

/-- Settles O45: the relation of R26 is kept by every edge, and its states show and do the same. -/
theorem unseededContentsAreNeverSeen : Obligations.UnseededContentsAreNeverSeen := by
  intro s t n h
  induction n generalizing s t with
  | zero => exact ⟨rfl, rfl, rfl⟩
  | succ n ih =>
    obtain ⟨houtputs, htaken, haccepted⟩ := ih s.edge t.edge h.edge
    refine ⟨?_, ?_, ?_⟩
    · rw [State.outputTrace, State.outputTrace, h.outputs, houtputs]
    · rw [State.taken, State.taken, h.takenNow, htaken]
    · rw [State.accepted, State.accepted, h.acceptedNow, haccepted]

/-- Settles O46, by induction over the schedule. -/
theorem coresAreIndependent : Obligations.CoresAreIndependent := by
  intro ks cores
  induction ks generalizing cores with
  | nil => exact ⟨cores, rfl, rfl, fun j => by simp [State.run]⟩
  | cons k ks ih =>
    obtain ⟨cores', hrun, hlength, hcore⟩ := ih (cores.modify k State.edge)
    refine ⟨cores', ?_, ?_, fun j => ?_⟩
    · rw [stepCores, stepCore_eq]
      exact hrun
    · rw [hlength, List.length_modify]
    · rw [hcore, List.getElem?_modify, List.count_cons]
      by_cases hkj : k = j
      · simp [hkj, State.run_succ_eq_comp]
      · simp [hkj]

end Sys2Proof.Proofs
end

section
/-! PROOFS. Rules for commands in order, the width of their answers, and what the repeated and the failed ones leave. -/

namespace Sys2Proof.Machine

theorem executeAll_cons (i : Instr) (is : List Instr) (g : Generator) :
    executeAll (i :: is) g =
      ((executeAll is (execute i g).1).1, (execute i g).2 :: (executeAll is (execute i g).1).2) := rfl

@[simp] theorem executeAll_singleton (i : Instr) (g : Generator) :
    executeAll [i] g = ((execute i g).1, [(execute i g).2]) := rfl

/-- Commands in two batches: the second starts where the first ends, and its responses follow (R39). -/
theorem executeAll_append (is js : List Instr) (g : Generator) :
    executeAll (is ++ js) g =
      ((executeAll js (executeAll is g).1).1, (executeAll is g).2 ++ (executeAll js (executeAll is g).1).2) := by
  induction is generalizing g with
  | nil => rfl
  | cons i is ih => rw [List.cons_append, executeAll_cons, executeAll_cons, ih, List.cons_append]

theorem execute_status (d : Word) (g : Generator) : execute (.status d) g = (g, ⟨.ok, cursorData g.idx⟩) := rfl

/-- A command that answers an error leaves the generator as it was (R38, R86). -/
theorem execute_gen_of_status_ne_ok {i : Instr} {g : Generator} (h : (execute i g).2.status ≠ .ok) :
    (execute i g).1 = g := by
  rcases execute_cases i g with ⟨_, _, he⟩ | ⟨_, _, _, _, _, _, he⟩ | ⟨_, _, he⟩ | ⟨_, _, he⟩ | ⟨_, _, _, he⟩
  case inl | inr.inl => rw [he] at h; exact absurd rfl h
  all_goals rw [he]

theorem lowByte_toNat_lt (y : Word) : (lowByte y).toNat < 2 ^ 8 := by
  rw [lowByte, BitVec.toNat_setWidth_of_le (by decide)]
  exact BitVec.isLt _

theorem cursorData_toNat_lt (c : Cursor) : (cursorData c).toNat < 2 ^ 10 := by
  rw [cursorData, BitVec.toNat_setWidth_of_le (by decide)]
  exact c.isLt

/-- `EXTRACT8` answers a byte, also when it fails (R35, R77). -/
theorem commandExtract8_data_toNat_lt (g : Generator) : (commandExtract8 g).2.data.toNat < 2 ^ 8 := by
  cases h : next hardwareThreshold g with
  | none =>
    rw [commandExtract8_of_none h]
    exact (by decide : (0#32).toNat < 2 ^ 8)
  | some r =>
    rw [commandExtract8_of_some h]
    exact lowByte_toNat_lt r.2

end Sys2Proof.Machine

namespace Sys2Proof.Proofs

open Sys2Proof Sys2Proof.Machine

/-- Settles O17, command by command: the byte of `EXTRACT8`, the cursor of `STATUS`, and the fixed 0 of the others. -/
theorem responseWidths : Obligations.ResponseWidths := by
  intro i s
  refine ⟨_, (execute i s.gen).2, exec_eq_execute i s, rfl, ?_⟩
  cases i with
  | seed v => exact ⟨nofun, nofun, fun _ => rfl⟩
  | extract d => exact ⟨nofun, nofun, nofun⟩
  | extract8 d => exact ⟨fun _ => commandExtract8_data_toNat_lt s.gen, nofun, nofun⟩
  | status d => exact ⟨nofun, fun _ => cursorData_toNat_lt s.gen.idx, nofun⟩
  | illegal op d => exact ⟨nofun, nofun, fun _ => rfl⟩

/-- Settles O40: `SEED v` leaves the same generator from both, and the other commands start from it. -/
theorem streamDependsOnSeedOnly : Obligations.StreamDependsOnSeedOnly := by
  intro v is g g'
  rw [executeAll_cons, executeAll_cons, execute_seed, execute_seed]

/-- Settles O41: `STATUS` reads the cursor alone, `SEED v` does not read the generator, and an error writes nothing. -/
theorem repeatedCommands : Obligations.RepeatedCommands := by
  intro g
  refine ⟨fun d d' => ⟨⟨.ok, cursorData g.idx⟩, ?_⟩, fun v => ?_, fun i => execute_gen_of_status_ne_ok⟩
  · rw [executeAll_cons, execute_status, executeAll_singleton, execute_status]
  · rw [executeAll_cons_gen, executeAll_singleton, executeAll_singleton, execute_seed, execute_seed]

end Sys2Proof.Proofs
end

section
/-! PROOFS. The port refines the transactions: one edge does what the command that it accepts says, and a run what the
commands that it accepts say, in order. -/

namespace Sys2Proof.Machine

theorem State.accepted_succ (n : Nat) (s : State) :
    s.accepted (n + 1) = s.acceptedNow.toList ++ s.edge.accepted n := rfl

theorem State.taken_succ (n : Nat) (s : State) :
    s.taken (n + 1) = s.takenNow.toList ++ s.edge.taken n := rfl

theorem State.noReset_succ {n : Nat} {s : State} (h : s.noReset (n + 1)) :
    s.pins.rst = false ∧ s.edge.noReset n :=
  ⟨h 0 n.succ_pos, fun k hk => h (k + 1) (Nat.succ_lt_succ hk)⟩

theorem State.acceptedNow_of_accepts {s : State} (h : s.accepts = true) :
    s.acceptedNow = some (decode s.pins.word) :=
  if_pos h

theorem State.acceptedNow_of_waits {s : State} (h : s.accepts = false) : s.acceptedNow = none := by
  rw [State.acceptedNow, h, if_neg Bool.false_ne_true]

theorem State.takenNow_of_idle {s : State} (h : s.phase = .idle) : s.takenNow = none := by
  rw [State.takenNow, State.presented, h, ite_self]

/-- An edge that accepts nothing loses no response: the one in flight is taken, or it stays in flight (R108). -/
theorem State.takenNow_append_advance {s : State} (hr : s.pins.rst = false) :
    s.takenNow.toList ++ (s.phase.advance s.pins.rspReady).response?.toList = s.phase.response?.toList := by
  rw [State.takenNow, State.presented, hr]
  match s.phase, s.pins.rspReady with
  | .idle, false | .idle, true => rfl
  | .busy 0 _, false | .busy 0 _, true => rfl
  | .busy (_ + 1) _, false | .busy (_ + 1) _, true => rfl
  | .presenting _, false | .presenting _, true => rfl

/-- One edge against the transactions: the statement of a run, for the one command that the edge may accept. -/
theorem State.edge_refines {s : State} (hr : s.pins.rst = false) :
    s.edge.gen = (executeAll s.acceptedNow.toList s.gen).1 ∧
    s.takenNow.toList ++ s.edge.phase.response?.toList =
      s.phase.response?.toList ++ (executeAll s.acceptedNow.toList s.gen).2 := by
  cases ha : s.accepts with
  | true =>
    obtain ⟨hidle, -, -⟩ := s.accepts_eq_true_iff.1 ha
    rw [State.edge_of_accepts ha, State.acceptedNow_of_accepts ha, State.takenNow_of_idle hidle, hidle]
    exact ⟨rfl, rfl⟩
  | false =>
    rw [State.edge_of_waits hr ha, State.acceptedNow_of_waits ha]
    refine ⟨rfl, ?_⟩
    rw [State.waitEdge_phase, State.sampled_phase, State.takenNow_append_advance hr]
    exact (List.append_nil _).symm

end Sys2Proof.Machine

namespace Sys2Proof.Proofs

open Sys2Proof Sys2Proof.Machine

/-- Settles O44, by induction over the edges: each edge refines the command that it accepts, and the commands of the
later edges start where it ends. -/
theorem portRefinesTransactions : Obligations.PortRefinesTransactions := by
  intro n s h
  induction n generalizing s with
  | zero => exact ⟨rfl, (List.append_nil _).symm⟩
  | succ n ih =>
    obtain ⟨hr, htail⟩ := State.noReset_succ h
    obtain ⟨hgen, hresponses⟩ := State.edge_refines hr
    obtain ⟨ihgen, ihresponses⟩ := ih s.edge htail
    rw [State.run_succ, State.accepted_succ, State.taken_succ, executeAll_append, ← hgen]
    refine ⟨ihgen, ?_⟩
    rw [List.append_assoc, ihresponses, ← List.append_assoc, hresponses, List.append_assoc]

end Sys2Proof.Proofs
end

section
/-! PROOFS. The command word and its two fields, the decoder and the encoder, and the rows of the opcode table. -/

namespace Sys2Proof

/-- `CW = op * 2^32 + data` (R47). -/
theorem commandWord_toNat (op : Opcode) (data : Word) :
    (commandWord op data).toNat = op.toNat * 2 ^ 32 + data.toNat := by
  rw [commandWord, BitVec.toNat_append, ← Nat.shiftLeft_add_eq_or_of_lt data.isLt, Nat.shiftLeft_eq]

/-- A command word is made of its two fields and nothing else (R47, R48). -/
theorem commandWord_op_data (cw : CommandWord) : commandWord cw.op cw.data = cw := by
  have hjoin := BitVec.extractLsb'_append_extractLsb'_eq_extractLsb' (x := cw) (len₂ := 8) (Nat.zero_add 32).symm
  exact hjoin.trans BitVec.extractLsb'_eq_self

theorem and_eq_commandWord (cw m : CommandWord) :
    cw &&& m = commandWord (cw.op &&& m.op) (cw.data &&& m.data) := by
  conv => lhs; rw [← commandWord_op_data cw, ← commandWord_op_data m]
  exact BitVec.and_append

theorem assignedOpcode_eq_false_iff (op : Opcode) :
    assignedOpcode op = false ↔ op ≠ 0x01#8 ∧ op ≠ 0x02#8 ∧ op ≠ 0x03#8 ∧ op ≠ 0x04#8 := by
  simp [assignedOpcode, and_assoc]

/-- The five kinds of opcode: the four that R49 assigns, and the illegal ones (R55). -/
theorem opcode_cases (op : Opcode) :
    op = 0x01#8 ∨ op = 0x02#8 ∨ op = 0x03#8 ∨ op = 0x04#8 ∨ assignedOpcode op = false := by
  rw [assignedOpcode_eq_false_iff]
  tauto

@[simp] theorem decodeFields_seed (data : Word) : decodeFields 0x01#8 data = .seed data := rfl
@[simp] theorem decodeFields_extract (data : Word) : decodeFields 0x02#8 data = .extract data := rfl
@[simp] theorem decodeFields_extract8 (data : Word) : decodeFields 0x03#8 data = .extract8 data := rfl
@[simp] theorem decodeFields_status (data : Word) : decodeFields 0x04#8 data = .status data := rfl

theorem decodeFields_illegal {op : Opcode} (h : assignedOpcode op = false) (data : Word) :
    decodeFields op data = .illegal op data := by
  obtain ⟨h1, h2, h3, h4⟩ := (assignedOpcode_eq_false_iff op).1 h
  rw [decodeFields, if_neg h1, if_neg h2, if_neg h3, if_neg h4]

@[simp] theorem decode_commandWord (op : Opcode) (data : Word) :
    decode (commandWord op data) = decodeFields op data := by
  rw [decode, Laws.op_commandWord, Laws.data_commandWord]

/-- A well-formed command is the one that its own opcode and data field select (R49). -/
theorem decodeFields_opcode_dataField {i : Instr} (h : i.wellFormed = true) :
    decodeFields i.opcode i.dataField = i := by
  cases i with
  | seed _ => rfl
  | extract _ => rfl
  | extract8 _ => rfl
  | status _ => rfl
  | illegal op d =>
    rw [Instr.wellFormed, Bool.not_eq_true'] at h
    exact decodeFields_illegal h d

theorem decode_encode {i : Instr} (h : i.wellFormed = true) : decode (encode i) = i := by
  rw [encode, decode_commandWord, decodeFields_opcode_dataField h]

/-- What two fields select is well formed and has these fields (R47, R54). -/
theorem decodeFields_fields (op : Opcode) (data : Word) :
    (decodeFields op data).wellFormed = true ∧ (decodeFields op data).opcode = op ∧
      (decodeFields op data).dataField = data := by
  rcases opcode_cases op with rfl | rfl | rfl | rfl | h
  case inr.inr.inr.inr =>
    rw [decodeFields_illegal h]
    exact ⟨by rw [Instr.wellFormed, h]; rfl, rfl, rfl⟩
  all_goals exact ⟨rfl, rfl, rfl⟩

theorem wellFormed_decode (cw : CommandWord) : (decode cw).wellFormed = true :=
  (decodeFields_fields cw.op cw.data).1

theorem encode_decode (cw : CommandWord) : encode (decode cw) = cw := by
  obtain ⟨-, hop, hdata⟩ := decodeFields_fields cw.op cw.data
  rw [encode, decode, hop, hdata, commandWord_op_data]

/-! The opcode table looks at the opcode alone. -/

theorem opcodeTable_data : ∀ r ∈ opcodeTable, r.mask.data = 0#32 ∧ r.pattern.data = 0#32 := by decide

theorem selects_iff {r : OpcodeRow} (hr : r ∈ opcodeTable) (cw : CommandWord) :
    r.selects cw = true ↔ cw.op &&& r.mask.op = r.pattern.op := by
  obtain ⟨hmask, hpattern⟩ := opcodeTable_data r hr
  have hfields := commandWord_op_data r.pattern
  rw [hpattern] at hfields
  rw [OpcodeRow.selects, beq_iff_eq, and_eq_commandWord, hmask, BitVec.and_zero]
  refine ⟨fun h => ?_, fun h => by rw [h, hfields]⟩
  rw [← h, Laws.op_commandWord]

/-- Two rows that both select a word agree where both look. -/
theorem selects_agree {r r' : OpcodeRow} {cw : CommandWord} (h : r.selects cw = true) (h' : r'.selects cw = true) :
    r.pattern &&& r'.mask = r'.pattern &&& r.mask := by
  rw [OpcodeRow.selects, beq_iff_eq] at h h'
  rw [← h, ← h', BitVec.and_assoc, BitVec.and_assoc, BitVec.and_comm r.mask]

/-- No two rows of the table agree where both look. -/
theorem opcodeTable_disjoint : ∀ r ∈ opcodeTable, ∀ r' ∈ opcodeTable,
    r.pattern &&& r'.mask = r'.pattern &&& r.mask → r' = r := by decide

/-- The illegal rows cover all opcodes that R49 does not assign (R50, R55). -/
theorem illegalRows_cover : ∀ op : Opcode, assignedOpcode op = false →
    ∃ r ∈ illegalRows, op &&& r.mask.op = r.pattern.op := by decide

theorem illegalRows_mnemonic : ∀ r ∈ illegalRows, r.mnemonic = .ILLEGAL := by decide

/-- Every opcode has a row, of the mnemonic that it selects (R49, R54). -/
theorem opcodeTable_covers (op : Opcode) (data : Word) :
    ∃ r ∈ opcodeTable, op &&& r.mask.op = r.pattern.op ∧ (decodeFields op data).mnemonic = r.mnemonic := by
  rcases opcode_cases op with rfl | rfl | rfl | rfl | h
  · exact ⟨⟨.SEED, 0x0100000000#40, 0xFF00000000#40⟩, by decide, by decide, rfl⟩
  · exact ⟨⟨.EXTRACT, 0x0200000000#40, 0xFF00000000#40⟩, by decide, by decide, rfl⟩
  · exact ⟨⟨.EXTRACT8, 0x0300000000#40, 0xFF00000000#40⟩, by decide, by decide, rfl⟩
  · exact ⟨⟨.STATUS, 0x0400000000#40, 0xFF00000000#40⟩, by decide, by decide, rfl⟩
  · obtain ⟨r, hr, hselects⟩ := illegalRows_cover op h
    rw [decodeFields_illegal h]
    exact ⟨r, List.mem_append_right _ hr, hselects, (illegalRows_mnemonic r hr).symm⟩

namespace Machine

/-- What a command does depends on its opcode alone, but for `SEED` (R50). -/
theorem exec_decodeFields_congr {op : Opcode} (h : op ≠ 0x01#8) (data data' : Word) (s : State) :
    exec (decodeFields op data) s = exec (decodeFields op data') s := by
  rcases opcode_cases op with rfl | rfl | rfl | rfl | hop
  · exact absurd rfl h
  case inr.inr.inr.inr => rw [decodeFields_illegal hop, decodeFields_illegal hop]; rfl
  all_goals rfl

end Machine

end Sys2Proof

namespace Sys2Proof.Proofs

open Sys2Proof Sys2Proof.Machine

/-- Settles O19: the encoder writes the two fields of the command, and the decoder reads them. -/
theorem decodeInvertsEncode : Obligations.DecodeInvertsEncode :=
  fun _ => decode_encode

/-- Settles O20: a word is made of its two fields, and the command that they select has these fields. -/
theorem encodeInvertsDecode : Obligations.EncodeInvertsDecode :=
  fun cw => ⟨wellFormed_decode cw, encode_decode cw⟩

/-- Settles O21: the rows cover all opcodes, and two rows that select one word are the same row. -/
theorem everyWordBelongsToOneTableRow : Obligations.EveryWordBelongsToOneTableRow := by
  intro cw
  obtain ⟨r, hr, hop, hmnemonic⟩ := opcodeTable_covers cw.op cw.data
  have hselects : r.selects cw = true := (selects_iff hr cw).2 hop
  exact ⟨r, hr, hselects, hmnemonic, fun r' hr' h' => opcodeTable_disjoint r hr r' hr' (selects_agree hselects h')⟩

/-- Settles O22: the decoder reads the two fields back, and opcodes from 5 on are none of the four assigned. -/
theorem opcodeMap : Obligations.OpcodeMap := by
  intro data
  have hdecode (op : Opcode) : decode (op ++ data) = decodeFields op data := decode_commandWord op data
  simp only [hdecode]
  refine ⟨rfl, rfl, rfl, rfl, rfl, fun op hop => decodeFields_illegal ?_ data⟩
  rw [assignedOpcode_eq_false_iff]
  refine ⟨?_, ?_, ?_, ?_⟩ <;> rintro rfl <;> exact absurd hop (by decide)

/-- Settles O23: each word is evaluated. -/
theorem writtenOutWordsDecode : Obligations.WrittenOutWordsDecode :=
  ⟨rfl, rfl, rfl, rfl, rfl, rfl, rfl, rfl⟩

/-- Settles O18: both words select by the same opcode, and only `SEED` reads its data field. -/
theorem dataFieldIsIgnoredExceptBySeed : Obligations.DataFieldIsIgnoredExceptBySeed := by
  intro cw cw' s hop hseed
  rw [decode, decode, ← hop]
  exact exec_decodeFields_congr hseed cw.data cw'.data s

/-- Settles O13: an illegal command raises its error, and every unassigned opcode is one. -/
theorem illegalCommandOnlyResponds : Obligations.IllegalCommandOnlyResponds :=
  ⟨fun _ _ s => exec_of_execute (commandIllegal_eq s.gen),
    fun cw h1 h2 h3 h4 => decodeFields_illegal ((assignedOpcode_eq_false_iff cw.op).2 ⟨h1, h2, h3, h4⟩) cw.data⟩

/-- Settles O15: the response is that of `execute`, which answers 0 with every error and to `SEED`. -/
theorem dataIsZeroOnErrorAndSeed : Obligations.DataIsZeroOnErrorAndSeed := by
  intro i s t r hexec hr h
  obtain ⟨rfl, -⟩ := exec_next hexec hr
  rcases h with herror | hseed
  · exact execute_response_sound i s.gen herror
  · cases i with
    | seed v => rfl
    | extract _ => cases hseed
    | extract8 _ => cases hseed
    | status _ => cases hseed
    | illegal _ _ => cases hseed

end Sys2Proof.Proofs
end

section
/-! PROOFS. A command word on the port: what the next edge makes of it, the codes of its response, and that no edge
stops the machine. -/

namespace Sys2Proof.Machine

@[simp] theorem PortIn.command_word (cw : CommandWord) : (PortIn.command cw).word = cw :=
  commandWord_op_data cw

/-- A word that the host presents to an idle core is accepted at the next edge (R106, R107). -/
theorem State.presentCommand_accepts (s : State) (cw : CommandWord) : (s.presentCommand cw).accepts = true :=
  (State.accepts_eq_true_iff _).2 ⟨rfl, rfl, rfl⟩

theorem State.presentCommand_sampled (s : State) (cw : CommandWord) :
    (s.presentCommand cw).sampled = { s with phase := .idle, freeIndex := s.freeIndex + 1 } := rfl

theorem step_presentCommand (s : State) (cw : CommandWord) :
    step (s.presentCommand cw) = exec (decode cw) { s with phase := .idle, freeIndex := s.freeIndex + 1 } := by
  rw [step_of_accepts (s.presentCommand_accepts cw), State.presentCommand_pins, PortIn.command_word,
    State.presentCommand_sampled]

theorem Status.code_ne_three (c : Status) : c.code ≠ 0b11#2 := by
  cases c <;> decide

theorem State.outputs_rspStatus {s : State} {r : Response} (h : s.presented = some r) :
    s.outputs.rspStatus = r.status.code := by
  rw [State.outputs, h]

/-- The host's machine runs as `State.run` says, for any number of edges (R100). -/
theorem run_core_eq_next_run (n : Nat) (s : State) : Host.Core.run Sys2Proof.core n s = .next (s.run n) := by
  induction n generalizing s with
  | zero => rfl
  | succ n ih => rw [run_core_succ, ih, State.run_succ]

end Sys2Proof.Machine

namespace Sys2Proof.Proofs

open Sys2Proof Sys2Proof.Machine

/-- Settles O33: every edge answers a next state, so every run does. -/
theorem machineNeverStops : Obligations.MachineNeverStops :=
  fun s n => ⟨s.run n, run_core_eq_next_run n s⟩

/-- Settles O25: the word is presented to an idle core, which accepts it. -/
theorem placedWordRunsNext : Obligations.PlacedWordRunsNext := by
  intro s w hw
  rw [State.withFetchWord, Nat.mod_eq_of_lt hw, step_presentCommand]

/-- Settles O29: a presented response has a status, whose code is on the pins. -/
theorem noResponseCarriesTheFourthCode : Obligations.NoResponseCarriesTheFourthCode := by
  refine ⟨rfl, rfl, rfl, fun s h => ?_⟩
  rw [State.outputs_rspValid] at h
  obtain ⟨r, hr⟩ := Option.isSome_iff_exists.1 h
  rw [State.outputs_rspStatus hr]
  exact ⟨r.status.code_ne_three, r.status, r.status.ofCode?_code⟩

end Sys2Proof.Proofs
end

section
/-! PROOFS. The assembler and the disassembler, on commands: what each form expands to, and what is printed for each
word. -/

namespace Sys2Proof.Machine

/-- A command encodes to the word that has its fields (R47). -/
theorem encode_eq_of_fields {i : Instr} {cw : CommandWord} (hop : cw.op = i.opcode) (hdata : cw.data = i.dataField) :
    encode i = cw := by
  rw [encode, ← hop, ← hdata, commandWord_op_data]

theorem AsmLine.expand_seed {v : Nat} (h : v < 2 ^ 32) :
    (AsmLine.seed v).expand = .ok [encode (.seed (BitVec.ofNat 32 v))] := if_pos h

theorem AsmLine.expand_cw {w : Nat} (h : w < 2 ^ 40) : (AsmLine.cw w).expand = .ok [BitVec.ofNat 40 w] := if_pos h

theorem encode_seed_eq_ofNat {v : Nat} (h : v < 2 ^ 32) :
    encode (.seed (BitVec.ofNat 32 v)) = BitVec.ofNat 40 (0x0100000000 + v) := by
  apply BitVec.eq_of_toNat_eq
  rw [encode, commandWord_toNat, Instr.opcode, Instr.dataField, BitVec.toNat_ofNat, BitVec.toNat_ofNat,
    BitVec.toNat_ofNat]
  omega

/-- `KSEED v` seeds with the low 16 bits of `v`, which need no truncation (R57, R63). -/
theorem AsmLine.expand_kseed (v : Nat) : (AsmLine.kseed v).expand = (AsmLine.seed (v % 2 ^ 16)).expand := by
  have hmask : v &&& 0xFFFF = v % 2 ^ 16 := Nat.and_two_pow_sub_one_eq_mod v 16
  rw [expand_seed (by omega), ← hmask, expand]

theorem disassemble_of_seed {cw : CommandWord} (hop : cw.op = 0x01#8) : disassemble cw = .seed cw.data.toNat := by
  rw [disassemble, decode, hop, decodeFields_seed]

theorem disassemble_of_extract {cw : CommandWord} (hop : cw.op = 0x02#8) (hdata : cw.data = 0#32) :
    disassemble cw = .extract := by
  rw [disassemble, decode, hop, decodeFields_extract, hdata]
  rfl

theorem disassemble_of_extract8 {cw : CommandWord} (hop : cw.op = 0x03#8) (hdata : cw.data = 0#32) :
    disassemble cw = .extract8 := by
  rw [disassemble, decode, hop, decodeFields_extract8, hdata]
  rfl

theorem disassemble_of_status {cw : CommandWord} (hop : cw.op = 0x04#8) (hdata : cw.data = 0#32) :
    disassemble cw = .status := by
  rw [disassemble, decode, hop, decodeFields_status, hdata]
  rfl

/-- Every word that no other form gives back whole is printed raw (R58). -/
theorem disassemble_of_other {cw : CommandWord} (hseed : cw.op ≠ 0x01#8)
    (h : cw.data ≠ 0#32 ∨ (cw.op ≠ 0x02#8 ∧ cw.op ≠ 0x03#8 ∧ cw.op ≠ 0x04#8)) :
    disassemble cw = .cw cw.toNat := by
  rw [disassemble, decode]
  rcases opcode_cases cw.op with hop | hop | hop | hop | hop
  · exact absurd hop hseed
  case inr.inr.inr.inr => rw [decodeFields_illegal hop]
  all_goals
    have hdata : cw.data ≠ 0#32 := by simpa [hop] using h
    rw [hop]
    exact if_neg hdata

/-- The five forms in which a word is printed. -/
theorem disassemble_cases (cw : CommandWord) :
    (cw.op = 0x01#8 ∧ disassemble cw = .seed cw.data.toNat) ∨
    (cw.op = 0x02#8 ∧ cw.data = 0#32 ∧ disassemble cw = .extract) ∨
    (cw.op = 0x03#8 ∧ cw.data = 0#32 ∧ disassemble cw = .extract8) ∨
    (cw.op = 0x04#8 ∧ cw.data = 0#32 ∧ disassemble cw = .status) ∨
    disassemble cw = .cw cw.toNat := by
  by_cases hdata : cw.data = 0#32
  · rcases opcode_cases cw.op with hop | hop | hop | hop | hop
    · exact .inl ⟨hop, disassemble_of_seed hop⟩
    · exact .inr (.inl ⟨hop, hdata, disassemble_of_extract hop hdata⟩)
    · exact .inr (.inr (.inl ⟨hop, hdata, disassemble_of_extract8 hop hdata⟩))
    · exact .inr (.inr (.inr (.inl ⟨hop, hdata, disassemble_of_status hop hdata⟩)))
    · obtain ⟨hseed, hother⟩ := (assignedOpcode_eq_false_iff cw.op).1 hop
      exact .inr (.inr (.inr (.inr (disassemble_of_other hseed (.inr hother)))))
  · by_cases hop : cw.op = 0x01#8
    · exact .inl ⟨hop, disassemble_of_seed hop⟩
    · exact .inr (.inr (.inr (.inr (disassemble_of_other hop (.inl hdata)))))

/-- What is printed for a word stands for that word alone (R58). -/
theorem expand_disassemble (cw : CommandWord) : (disassemble cw).expand = .ok [cw] := by
  rcases disassemble_cases cw with ⟨hop, h⟩ | ⟨hop, hdata, h⟩ | ⟨hop, hdata, h⟩ | ⟨hop, hdata, h⟩ | h <;> rw [h]
  case inl => rw [AsmLine.expand_seed cw.data.isLt, BitVec.ofNat_toNat, BitVec.setWidth_eq, encode_eq_of_fields hop rfl]
  case inr.inr.inr.inr => rw [AsmLine.expand_cw cw.isLt, BitVec.ofNat_toNat, BitVec.setWidth_eq]
  all_goals rw [AsmLine.expand, encode_eq_of_fields hop hdata]

end Sys2Proof.Machine

namespace Sys2Proof.Proofs

open Sys2Proof Sys2Proof.Machine

/-- Settles O47: `SEED` by its word as a number, the commands without operand by evaluation. -/
theorem assemblerEncodesCommands : Obligations.AssemblerEncodesCommands := by
  refine ⟨fun v hv => ?_, fun v hv => if_neg (Nat.not_lt.2 hv), rfl, rfl, rfl, fun w => AsmLine.expand_cw⟩
  rw [AsmLine.expand_seed hv, encode_seed_eq_ofNat hv]

/-- Settles O48: the truncated operands of `SEEDW` and `KSEED` are operands of `SEED`. -/
theorem pseudoInstructionsExpand : Obligations.PseudoInstructionsExpand := by
  refine ⟨fun v => ?_, AsmLine.expand_kseed, fun v w h => ?_, rfl, fun _ => rfl, fun _ => rfl⟩
  · rw [AsmLine.expand_seed (Nat.mod_lt v (by decide)), AsmLine.expand]
  · rw [AsmLine.expand_kseed, AsmLine.expand_kseed, h]

/-- Settles O49: one lemma per printed form, and that each form expands to its word. -/
theorem disassemblyForms : Obligations.DisassemblyForms :=
  fun cw => ⟨disassemble_of_seed, disassemble_of_extract, disassemble_of_extract8, disassemble_of_status,
    disassemble_of_other, expand_disassemble cw⟩

end Sys2Proof.Proofs
end

section
/-! PROOFS. The text of a disassembled word: the literal that hexadecimal digits are read as, the words of a line, and
the command that a printed line is parsed as. -/

namespace Sys2Proof.Machine

/-- A character that ends neither a word of a line nor, by beginning a comment, the line. -/
def isWordChar (c : Char) : Bool := !isBlank c && c != ';'

theorem isWordChar_iff (c : Char) : isWordChar c = true ↔ isBlank c = false ∧ (c != ';') = true := by
  rw [isWordChar, Bool.and_eq_true, Bool.not_eq_true']

theorem isWordChar_hexDigit : ∀ d < 16, isWordChar (hexDigit d) = true := by decide

theorem hexDigit_ne_underscore : ∀ d < 16, hexDigit d ≠ '_' := by decide

theorem digitValue_hexDigit : ∀ d < 16, digitValue (hexDigit d) = some d := by decide

theorem isWordChar_of_mem_hexDigits (k n : Nat) : ∀ c ∈ hexDigits k n, isWordChar c = true := by
  induction k with
  | zero => exact fun _ h => absurd h List.not_mem_nil
  | succ k ih => exact List.forall_mem_cons.2 ⟨isWordChar_hexDigit _ (Nat.mod_lt _ (by decide)), ih⟩

theorem digitsValue_hexDigit (acc : Nat) (afterDigit : Bool) {d : Nat} (hd : d < 16) (cs : List Char) :
    digitsValue 16 acc afterDigit (hexDigit d :: cs) = digitsValue 16 (acc * 16 + d) true cs := by
  rw [digitsValue, if_neg (hexDigit_ne_underscore d hd), digitValue_hexDigit d hd]
  exact if_pos hd

/-- Reading the printed digits of a number below `16 ^ k` appends the number to the value read before. -/
theorem digitsValue_hexDigits (k n acc : Nat) (cs : List Char) :
    digitsValue 16 acc true (hexDigits k n ++ cs) = digitsValue 16 (acc * 16 ^ k + n % 16 ^ k) true cs := by
  induction k generalizing acc with
  | zero => rw [hexDigits, List.nil_append, Nat.pow_zero, Nat.mul_one, Nat.mod_one, Nat.add_zero]
  | succ k ih =>
    have hvalue : (acc * 16 + n / 16 ^ k % 16) * 16 ^ k + n % 16 ^ k = acc * 16 ^ (k + 1) + n % 16 ^ (k + 1) := by
      rw [Nat.mod_pow_succ]
      ring
    rw [hexDigits, List.cons_append, digitsValue_hexDigit _ _ (Nat.mod_lt _ (by decide)), ih, hvalue]

/-- The first digit of a literal needs no digit before it. -/
theorem digitsValue_hexDigits_first (k n acc : Nat) (afterDigit : Bool) (cs : List Char) :
    digitsValue 16 acc afterDigit (hexDigits (k + 1) n ++ cs) =
      digitsValue 16 acc true (hexDigits (k + 1) n ++ cs) := by
  have hd : n / 16 ^ k % 16 < 16 := Nat.mod_lt _ (by decide)
  rw [hexDigits, List.cons_append, digitsValue_hexDigit acc afterDigit hd, digitsValue_hexDigit acc true hd]

theorem literalValue_hex (ds : List Char) : literalValue ('0' :: 'x' :: ds) = digitsValue 16 0 false ds := rfl

/-- The literal of a printed `SEED` operand. -/
theorem literalValue_hexDigits {k n : Nat} (h : n < 16 ^ (k + 1)) :
    literalValue ('0' :: 'x' :: hexDigits (k + 1) n) = some n := by
  rw [literalValue_hex, ← List.append_nil (hexDigits _ _), digitsValue_hexDigits_first, digitsValue_hexDigits,
    Nat.mod_eq_of_lt h, Nat.zero_mul, Nat.zero_add]
  rfl

/-- The literal of a raw word, its two fields set apart by an underscore. -/
theorem literalValue_fields {j k m n : Nat} (hm : m < 16 ^ (j + 1)) (hn : n < 16 ^ (k + 1)) :
    literalValue ('0' :: 'x' :: (hexDigits (j + 1) m ++ '_' :: hexDigits (k + 1) n)) =
      some (m * 16 ^ (k + 1) + n) := by
  have hunderscore (acc : Nat) (cs : List Char) :
      digitsValue 16 acc true ('_' :: cs) = digitsValue 16 acc false cs := rfl
  rw [literalValue_hex, digitsValue_hexDigits_first, digitsValue_hexDigits, hunderscore,
    ← List.append_nil (hexDigits (k + 1) n), digitsValue_hexDigits_first, digitsValue_hexDigits, Nat.mod_eq_of_lt hm,
    Nat.mod_eq_of_lt hn, Nat.zero_mul, Nat.zero_add]
  rfl

/-- The characters of a word are read into it, last first. -/
theorem lineWords_append {w : List Char} (hw : ∀ c ∈ w, isWordChar c = true) (word cs : List Char) :
    lineWords word (w ++ cs) = lineWords (w.reverse ++ word) cs := by
  induction w generalizing word with
  | nil => rfl
  | cons c w ih =>
    obtain ⟨hc, htail⟩ := List.forall_mem_cons.1 hw
    obtain ⟨hblank, -⟩ := (isWordChar_iff c).1 hc
    rw [List.cons_append, lineWords, hblank, if_neg Bool.false_ne_true, ih htail, List.reverse_cons, List.append_assoc,
      List.singleton_append]

/-- A line of two words and no comment. -/
theorem lineWords_pair {m v : List Char} (hm : ∀ c ∈ m, isWordChar c = true) (hv : ∀ c ∈ v, isWordChar c = true)
    (hmne : m ≠ []) (hvne : v ≠ []) : lineWords [] ((m ++ ' ' :: v).takeWhile (· != ';')) = [m, v] := by
  have hcomment {w : List Char} (hw : ∀ c ∈ w, isWordChar c = true) : ∀ c ∈ w, (c != ';') = true := fun c hc =>
    ((isWordChar_iff c).1 (hw c hc)).2
  have hline : ∀ c ∈ m ++ ' ' :: v, (c != ';') = true :=
    List.forall_mem_append.2 ⟨hcomment hm, List.forall_mem_cons.2 ⟨rfl, hcomment hv⟩⟩
  have hblank : isBlank ' ' = true := rfl
  have hlast : lineWords [] v = [v] := by
    rw [← List.append_nil v, lineWords_append hv, List.append_nil, lineWords, if_neg (List.reverse_ne_nil_iff.2 hvne),
      List.append_nil, List.reverse_reverse]
  rw [List.takeWhile_eq_self_iff.2 hline, lineWords_append hm, List.append_nil, lineWords, hblank, if_pos rfl,
    if_neg (List.reverse_ne_nil_iff.2 hmne), List.reverse_reverse, hlast]

theorem withLiteral_of_value {v : List Char} {n : Nat} (h : literalValue v = some n) (line : Nat → AsmLine) :
    withLiteral v line = .ok (some (line n)) := by
  rw [withLiteral, h]

section
variable {v : List Char} {n : Nat} (hchars : ∀ c ∈ v, isWordChar c = true) (hvalue : literalValue v = some n)
include hchars hvalue

theorem lineWords_literal {m : List Char} (hm : ∀ c ∈ m, isWordChar c = true) (hmne : m ≠ []) :
    lineWords [] ((m ++ ' ' :: v).takeWhile (· != ';')) = [m, v] :=
  lineWords_pair hm hchars hmne (by rintro rfl; cases hvalue)

theorem parseLine_seed : parseLine (['S', 'E', 'E', 'D'] ++ ' ' :: v) = .ok (some (.seed n)) := by
  have hwords := lineWords_literal hchars hvalue (m := ['S', 'E', 'E', 'D']) (List.all_eq_true.1 rfl) (by decide)
  rw [parseLine, hwords]
  exact withLiteral_of_value hvalue .seed

theorem parseLine_cw : parseLine (['.', 'c', 'w'] ++ ' ' :: v) = .ok (some (.cw n)) := by
  have hwords := lineWords_literal hchars hvalue (m := ['.', 'c', 'w']) (List.all_eq_true.1 rfl) (by decide)
  rw [parseLine, hwords]
  exact withLiteral_of_value hvalue .cw

end

theorem disassembledText_of_seed {cw : CommandWord} {v : Nat} (h : disassemble cw = .seed v) :
    disassembledText cw = ['S', 'E', 'E', 'D'] ++ ' ' :: '0' :: 'x' :: hexDigits 8 v := by
  rw [disassembledText, h]
  rfl

theorem disassembledText_of_cw {cw : CommandWord} {w : Nat} (h : disassemble cw = .cw w) :
    disassembledText cw = ['.', 'c', 'w'] ++ ' ' :: '0' :: 'x' ::
      (hexDigits 2 cw.op.toNat ++ '_' :: hexDigits 8 cw.data.toNat) := by
  rw [disassembledText, h]
  rfl

theorem isWordChar_of_mem_hexLiteral {ds : List Char} (h : ∀ c ∈ ds, isWordChar c = true) :
    ∀ c ∈ '0' :: 'x' :: ds, isWordChar c = true :=
  List.forall_mem_cons.2 ⟨rfl, List.forall_mem_cons.2 ⟨rfl, h⟩⟩

theorem toNat_eq_fields (cw : CommandWord) : cw.toNat = cw.op.toNat * 2 ^ 32 + cw.data.toNat := by
  rw [← commandWord_toNat, commandWord_op_data]

/-- What is printed for a word is parsed as what it prints (R58). -/
theorem parseLine_disassembledText (cw : CommandWord) :
    parseLine (disassembledText cw) = .ok (some (disassemble cw)) := by
  rcases disassemble_cases cw with ⟨-, h⟩ | ⟨-, -, h⟩ | ⟨-, -, h⟩ | ⟨-, -, h⟩ | h
  case inl =>
    rw [disassembledText_of_seed h, h]
    exact parseLine_seed (isWordChar_of_mem_hexLiteral (isWordChar_of_mem_hexDigits 8 _))
      (literalValue_hexDigits cw.data.isLt)
  case inr.inr.inr.inr =>
    have hchars : ∀ c ∈ hexDigits 2 cw.op.toNat ++ '_' :: hexDigits 8 cw.data.toNat, isWordChar c = true :=
      List.forall_mem_append.2 ⟨isWordChar_of_mem_hexDigits 2 _,
        List.forall_mem_cons.2 ⟨rfl, isWordChar_of_mem_hexDigits 8 _⟩⟩
    rw [disassembledText_of_cw h, h, toNat_eq_fields]
    exact parseLine_cw (isWordChar_of_mem_hexLiteral hchars) (literalValue_fields cw.op.isLt cw.data.isLt)
  all_goals
    rw [disassembledText, h]
    rfl

theorem assembleLine_of_parse {text : List Char} {line : AsmLine} (h : parseLine text = .ok (some line)) :
    assembleLine text = line.expand := by
  rw [assembleLine, h]

end Sys2Proof.Machine

namespace Sys2Proof.Proofs

open Sys2Proof Sys2Proof.Machine

/-- Settles O50: the printed line is parsed as the printed form, which expands to the word. -/
theorem printedLineAssemblesBack : Obligations.PrintedLineAssemblesBack := by
  intro cw
  rw [assembleLine_of_parse (parseLine_disassembledText cw), expand_disassemble]

end Sys2Proof.Proofs
end

section
/-! PROOFS. The seeding recurrence over the naturals, and the effect of `SEED`. -/

namespace Sys2Proof.Machine

/-- The recurrence is exact over the naturals and reduced once (R59). -/
theorem initWord_toNat (prev : Word) (i : Nat) :
    (initWord prev i).toNat = (1812433253 * (prev.toNat ^^^ (prev.toNat >>> 30)) + i) % 2 ^ 32 := by
  rw [initWord, initMultiplier, BitVec.toNat_ofNat, BitVec.toNat_xor, BitVec.toNat_ushiftRight]

/-- A shift right by 30 leaves 0 in every bit from bit 2 up, so XOR with it changes bits 1 and 0 alone (R59). -/
theorem getLsbD_xor_ushiftRight_30 (prev : Word) {j : Nat} (hj : 2 ≤ j) :
    (prev ^^^ (prev >>> 30)).getLsbD j = prev.getLsbD j := by
  have hout : prev.getLsbD (30 + j) = false := BitVec.getLsbD_of_ge prev (30 + j) (by omega)
  rw [BitVec.getLsbD_xor, BitVec.getLsbD_ushiftRight, hout, Bool.xor_false]

theorem generation_zero_getElem (v : Word) (j : Nat) (hj : j < 624) : (generation v 0)[j] = seedWord v j :=
  seedVector_getElem v _ j hj

/-- `SEED v` on the port: the same generator and response from every state (R62, R64). -/
theorem exec_seed (v : Word) (s : State) : ∃ n,
    exec (.seed v) s = .next { s with gen := seededGenerator v, phase := .busy n ⟨.ok, 0#32⟩ } :=
  exec_of_execute (execute_seed v s.gen)

end Sys2Proof.Machine

namespace Sys2Proof.Proofs

open Sys2Proof Sys2Proof.Machine

/-- Settles O4: `SEED v` leaves generation 0 of `v`, whose words are the recurrence. -/
theorem seedFillsStateVector : Obligations.SeedFillsStateVector := by
  intro v s
  obtain ⟨n, hexec⟩ := exec_seed v s
  refine ⟨rfl, generation v 0, n, hexec, generation_zero_getElem v 0 (by decide), fun i h => ?_⟩
  rw [generation_zero_getElem, generation_zero_getElem, seedWord, initWord_toNat]

/-- Settles O5: from both states `SEED v` leaves generation 0 of `v`. -/
theorem seedForgetsPreviousState : Obligations.SeedForgetsPreviousState := by
  intro v s₁ s₂
  obtain ⟨n₁, h₁⟩ := exec_seed v s₁
  obtain ⟨n₂, h₂⟩ := exec_seed v s₂
  exact ⟨seededGenerator v, ⟨.ok, 0#32⟩, n₁, n₂, h₁, h₂⟩

/-- Settles O3, by the exact recurrence and the bits that a shift by 30 leaves. -/
theorem initWordIsReducedOnce : Obligations.InitWordIsReducedOnce :=
  fun prev i _ _ => ⟨initWord_toNat prev i, fun _ hj => getLsbD_xor_ushiftRight_30 prev hj⟩

end Sys2Proof.Proofs
end

section
/-! PROOFS. The twist: one word of it in the form of R69, its words in the three ranges of R68, and the words of
successive generations as one sequence. -/

namespace Sys2Proof.Machine

/-- `twistA(z)`: the shift by one, and the constant when bit 0 of `z` is 1 (R67, R69). -/
def twistA (z : Word) : Word := (z >>> 1) ^^^ (if z.getLsbD 0 then twistConstant else 0#32)

/-- `twist_word` by `twistA` (R65, R69). -/
theorem twistWord_eq_xor_twistA (cur nxt far : Word) :
    twistWord cur nxt far = far ^^^ twistA ((cur &&& upperMask) ||| (nxt &&& lowerMask)) := by
  simp only [twistWord, twistA]
  split
  · rfl
  · rw [BitVec.xor_zero]

section
variable (mt : StateVector)

/-- The first row of R68's table: every word read is old. -/
theorem twistVector_getElem_low (i : Nat) (h : i < 227) :
    (twistVector mt)[i] = twistWord mt[i] mt[i + 1] mt[i + 397] := by
  rw [twistVector_getElem, dif_pos (by omega), dif_pos h]

/-- The second row of R68's table: the far word is new. -/
theorem twistVector_getElem_middle (i : Nat) (h : i < 396) :
    (twistVector mt)[i + 227] = twistWord mt[i + 227] mt[i + 228] (twistVector mt)[i] := by
  rw [twistVector_getElem, dif_pos (by omega), dif_neg (by omega)]
  simp only [Nat.add_sub_cancel]

/-- The third row of R68's table: the next word and the far word are new. -/
theorem twistVector_getElem_last :
    (twistVector mt)[623] = twistWord mt[623] (twistVector mt)[0] (twistVector mt)[396] := by
  rw [twistVector_getElem, dif_neg (by decide), dif_neg (by decide)]

theorem sequenceWord_eq_getElem {k n i : Nat} (hk : k = 624 * n + i) (hi : i < 624) :
    sequenceWord mt k = (generationFrom mt n)[i] := by
  have hn : k / 624 = n := by omega
  have hmod : k % 624 = i := by omega
  simp only [sequenceWord, hn, hmod]

/-- The sequence follows the twist: where a read wraps to the start of `MT`, or meets a word already overwritten, it
reads the next generation (R68, R69). -/
theorem sequenceWord_add_624 (k : Nat) :
    sequenceWord mt (k + 624) =
      twistWord (sequenceWord mt k) (sequenceWord mt (k + 1)) (sequenceWord mt (k + 397)) := by
  obtain ⟨n, i, hi, rfl⟩ : ∃ n i, i < 624 ∧ k = 624 * n + i :=
    ⟨k / 624, k % 624, Nat.mod_lt _ (by decide), (Nat.div_add_mod k 624).symm⟩
  have hnew : sequenceWord mt (624 * n + i + 624) = (twistVector (generationFrom mt n))[i] :=
    sequenceWord_eq_getElem mt (n := n + 1) (by omega) hi
  have hnxt : sequenceWord mt (624 * n + i + 1) =
      if h : i < 623 then (generationFrom mt n)[i + 1] else (twistVector (generationFrom mt n))[0] := by
    split
    · exact sequenceWord_eq_getElem mt (by omega) _
    · exact sequenceWord_eq_getElem mt (n := n + 1) (by omega) _
  have hfar : sequenceWord mt (624 * n + i + 397) =
      if h : i < 227 then (generationFrom mt n)[i + 397]
      else (twistVector (generationFrom mt n))[i - 227]'(by omega) := by
    split
    · exact sequenceWord_eq_getElem mt (by omega) _
    · exact sequenceWord_eq_getElem mt (n := n + 1) (by omega) _
  rw [hnew, hnxt, hfar, sequenceWord_eq_getElem mt rfl hi, twistVector_getElem]

end

end Sys2Proof.Machine

namespace Sys2Proof.Proofs

open Sys2Proof Sys2Proof.Machine

/-- Settles O7: `NEXT` twists and takes word 0, and the words of the twist are made as the rows of R68's table say. -/
theorem extractionTwistsInPlaceFirst : Obligations.ExtractionTwistsInPlaceFirst := by
  intro d s hge hu
  have hnext := next_of_twist (t := hardwareThreshold) hge hu
  obtain ⟨n, hx⟩ := exec_of_execute (i := .extract d) (commandExtract_of_some hnext)
  obtain ⟨n', hx8⟩ := exec_of_execute (i := .extract8 d) (commandExtract8_of_some hnext)
  rw [lowByte_eq_and] at hx8
  refine ⟨_, n, n', hx, hx8, ?_⟩
  intro made
  have hmade (cur nxt far : Word) : twistWord cur nxt far = made cur nxt far :=
    (twistWord_eq_xor_twistA cur nxt far).trans (BitVec.xor_assoc _ _ _).symm
  simp only [← hmade]
  exact ⟨twistVector_getElem_low _, twistVector_getElem_middle _, twistVector_getElem_last _⟩

/-- Settles O38: the sequence follows the twist, and `twist_word` has the form of R69. -/
theorem generationsFollowOneRecurrence : Obligations.GenerationsFollowOneRecurrence :=
  fun mt k => (sequenceWord_add_624 mt k).trans (twistWord_eq_xor_twistA _ _ _)

end Sys2Proof.Proofs
end

section
/-! PROOFS. Tempering as four steps, each of which XORs a word with bits that the step can be undone from, and the two
extractions side by side. -/

namespace Sys2Proof.Machine

/-- XOR with bits of which each is made from bits that come earlier in some order `rank` loses nothing: bit by bit in
that order, the word can be read back from the result. -/
theorem injective_xor_of_earlier_bits {w : Nat} (rank : Nat → Nat) {f : BitVec w → BitVec w}
    (hf : ∀ (a b : BitVec w) (j : Nat), (∀ i, rank i < rank j → a.getLsbD i = b.getLsbD i) →
      (f a).getLsbD j = (f b).getLsbD j) :
    Function.Injective fun y => y ^^^ f y := by
  intro a b hab
  have hbit (j : Nat) : a.getLsbD j = b.getLsbD j := by
    induction hr : rank j using Nat.strong_induction_on generalizing j with
    | _ r ih =>
      have hxor := congrArg (BitVec.getLsbD · j) hab
      simp only [BitVec.getLsbD_xor, hf a b j fun i hi => ih (rank i) (hr ▸ hi) i rfl] at hxor
      exact Bool.xor_left_inj.1 hxor
  exact BitVec.eq_of_getLsbD_eq fun j _ => hbit j

/-- The shape of the second and third tempering steps (R73). -/
def xorMaskedShiftLeft (n : Nat) (mask y : Word) : Word := y ^^^ ((y <<< n) &&& mask)

/-- The shape of the first and last tempering steps (R73). -/
def xorShiftRight (n : Nat) (y : Word) : Word := y ^^^ (y >>> n)

theorem temper_eq_comp : temper = xorShiftRight 18 ∘ xorMaskedShiftLeft 15 temperMaskC ∘
    xorMaskedShiftLeft 7 temperMaskB ∘ xorShiftRight 11 := rfl

/-- A shift left moves bits up, so the bits of the word are read back from bit 0 up. -/
theorem xorMaskedShiftLeft_injective {n : Nat} (hn : 0 < n) (mask : Word) :
    Function.Injective (xorMaskedShiftLeft n mask) := by
  refine injective_xor_of_earlier_bits (fun i => i) fun a b j hearlier => ?_
  rw [BitVec.getLsbD_and, BitVec.getLsbD_and, BitVec.getLsbD_shiftLeft, BitVec.getLsbD_shiftLeft]
  by_cases hj : j < n
  · simp [hj]
  · rw [hearlier (j - n) (by omega)]

/-- A shift right moves bits down, so the bits of the word are read back from bit 31 down. -/
theorem xorShiftRight_injective {n : Nat} (hn : 0 < n) : Function.Injective (xorShiftRight n) := by
  refine injective_xor_of_earlier_bits (fun i => 32 - i) fun a b j hearlier => ?_
  rw [BitVec.getLsbD_ushiftRight, BitVec.getLsbD_ushiftRight]
  by_cases hj : j < 32
  · exact hearlier (n + j) (by omega)
  · rw [BitVec.getLsbD_of_ge a _ (by omega), BitVec.getLsbD_of_ge b _ (by omega)]

theorem temper_injective : Function.Injective temper := by
  rw [temper_eq_comp]
  exact (xorShiftRight_injective (by decide)).comp <| (xorMaskedShiftLeft_injective (by decide) _).comp <|
    (xorMaskedShiftLeft_injective (by decide) _).comp (xorShiftRight_injective (by decide))

/-- `EXTRACT8` does what `EXTRACT` would have done in its place, and answers the low byte of its answer; the data of an
error response is 0, and so is its low byte (R78, R53). -/
theorem commandExtract8_eq (g : Generator) :
    commandExtract8 g = ((commandExtract g).1,
      ⟨(commandExtract g).2.status, (commandExtract g).2.data &&& 0xFF#32⟩) := by
  cases h : next hardwareThreshold g with
  | none =>
    rw [commandExtract8_of_none h, commandExtract_of_none h, BitVec.zero_and]
  | some p =>
    rw [commandExtract8_of_some h, commandExtract_of_some h, lowByte_eq_and]

/-- An extraction in a seeded core succeeds and consumes one position: the cursor becomes one more than that of the
word taken, which is word 0 after a twist (R75, R78). -/
theorem commandExtract_of_seeded {g : Generator} (hu : g.idx ≠ unseeded) :
    (commandExtract g).2.status = .ok ∧
      (commandExtract g).1.idx.toNat = (if g.idx.toNat < 624 then g.idx.toNat else 0) + 1 := by
  by_cases hlt : g.idx.toNat < 624
  · have hnext : next hardwareThreshold g = some (takeWord g hlt) := next_of_lt hlt
    rw [commandExtract_of_some hnext, if_pos hlt]
    exact ⟨rfl, cursor_add_one_toNat hlt⟩
  · have hge : hardwareThreshold.value ≤ g.idx.toNat := Nat.le_of_not_lt hlt
    rw [commandExtract_of_some (next_of_twist hge hu), if_neg hlt]
    exact ⟨rfl, rfl⟩

end Sys2Proof.Machine

namespace Sys2Proof.Proofs

open Sys2Proof Sys2Proof.Machine

/-- Settles O10: the definition, with its two masks written out. -/
theorem temperIsFourSteps : Obligations.TemperIsFourSteps :=
  fun _ => ⟨_, _, _, rfl, rfl, rfl, rfl⟩

/-- Settles O11: each of the four steps is injective, and on the finitely many words injective is bijective. -/
theorem temperIsBijective : Obligations.TemperIsBijective :=
  ⟨Finite.injective_iff_bijective.1 temper_injective, by decide⟩

/-- Settles O9, by what `EXTRACT8` makes of the generator and the response of `EXTRACT`. -/
theorem bothExtractionsAreOneStream : Obligations.BothExtractionsAreOneStream := by
  intro d d' s
  obtain ⟨n, hx⟩ := exec_of_execute (i := .extract d) (s := s) rfl
  obtain ⟨n', hx8⟩ := exec_of_execute (i := .extract8 d') (s := s) (commandExtract8_eq s.gen)
  exact ⟨_, _, n, n', hx, hx8, commandExtract_of_seeded⟩

end Sys2Proof.Proofs
end

section
/-! PROOFS. The reference variant, which twists at cursor 623 already: its pulls are pulls of this hardware's stream,
with the last word of each generation left out (R80). -/

namespace Sys2Proof.Machine

/-- Away from cursor 623 the two thresholds say the same. -/
theorem next_reference_of_ne {g : Generator} (h : g.idx.toNat ≠ 623) : next .reference g = next .textbook g := by
  rcases next_cases .textbook g with ⟨hlt, hn⟩ | ⟨hu, hn⟩ | ⟨hge, hu, hn⟩
  · rw [hn, next_of_lt (t := .reference) (Nat.lt_of_le_of_ne (Nat.le_of_lt_succ hlt) h)]
  · rw [hn, next_of_unseeded hu]
  · rw [hn, next_of_twist (t := .reference) (Nat.le_of_succ_le hge) hu]

/-- At cursor 623 the variant twists, as this hardware does one pull later: the last word of the generation is never
taken. -/
theorem next_reference_streamGenerator_of_last (v : Word) {k : Nat} (hk : k % 624 = 623) :
    next .reference (streamGenerator v k) = next .textbook (streamGenerator v (k + 1)) := by
  have hidx := streamGenerator_idx_toNat v k
  have hidx' := streamGenerator_idx_toNat v (k + 1)
  have hmt : (streamGenerator v k).mt = (streamGenerator v (k + 1)).mt := by
    rw [streamGenerator_mt, streamGenerator_mt, show (k + 623) / 624 = (k + 1 + 623) / 624 by omega]
  have hge : TwistThreshold.reference.value ≤ (streamGenerator v k).idx.toNat :=
    (by omega : 623 ≤ (streamGenerator v k).idx.toNat)
  have hge' : TwistThreshold.textbook.value ≤ (streamGenerator v (k + 1)).idx.toNat :=
    (by omega : 624 ≤ (streamGenerator v (k + 1)).idx.toNat)
  rw [next_of_twist hge (streamGenerator_idx_ne_unseeded v k),
    next_of_twist hge' (streamGenerator_idx_ne_unseeded v (k + 1)), hmt]

/-- How many pulls of this hardware have the output stream where `j` pulls of the reference variant have it (R80). -/
def hardwarePulls (j : Nat) : Nat := j + (j - 1) / 623

/-- The variant stands where `k + k / 623` pulls of this hardware lead, or, with the last word of a generation yet to
leave out, one pull before. -/
theorem hardwarePulls_cases (k : Nat) :
    (hardwarePulls k % 624 ≠ 623 ∧ hardwarePulls k = k + k / 623) ∨
    (hardwarePulls k % 624 = 623 ∧ hardwarePulls k + 1 = k + k / 623) := by
  rw [hardwarePulls]
  omega

theorem hardwarePulls_succ (k : Nat) : hardwarePulls (k + 1) = k + k / 623 + 1 := by
  rw [hardwarePulls, Nat.add_sub_cancel, Nat.add_right_comm]

/-- One pull of the variant, after `k` others: output `k + k / 623` of this hardware. -/
theorem next_reference_streamGenerator (v : Word) (k : Nat) :
    next .reference (streamGenerator v (hardwarePulls k)) =
      some (streamGenerator v (hardwarePulls (k + 1)), streamWord v (k + k / 623)) := by
  have hhardware : next .reference (streamGenerator v (hardwarePulls k)) =
      next .textbook (streamGenerator v (k + k / 623)) := by
    rcases hardwarePulls_cases k with ⟨hmod, hpulls⟩ | ⟨hmod, hpulls⟩
    · have hidx := streamGenerator_idx_toNat v (hardwarePulls k)
      rw [next_reference_of_ne (by omega), hpulls]
    · rw [next_reference_streamGenerator_of_last v hmod, hpulls]
  rw [hhardware, hardwarePulls_succ]
  exact next_streamGenerator v _

theorem afterPulls_succ {t : TwistThreshold} {k : Nat} {g g' : Generator} (h : afterPulls t k g = some g') :
    afterPulls t (k + 1) g = (next t g').map Prod.fst := by
  rw [afterPulls, h, Option.bind_some]

theorem outputAfter_of_afterPulls {t : TwistThreshold} {k : Nat} {g g' : Generator}
    (h : afterPulls t k g = some g') : outputAfter t k g = (next t g').map Prod.snd := by
  rw [outputAfter, h, Option.bind_some]

theorem afterPulls_textbook (v : Word) (k : Nat) :
    afterPulls .textbook k (seededGenerator v) = some (streamGenerator v k) := by
  induction k with
  | zero => rfl
  | succ k ih => exact (afterPulls_succ ih).trans (congrArg (Option.map Prod.fst) (next_streamGenerator v k))

theorem afterPulls_reference (v : Word) (k : Nat) :
    afterPulls .reference k (seededGenerator v) = some (streamGenerator v (hardwarePulls k)) := by
  induction k with
  | zero => rfl
  | succ k ih => rw [afterPulls_succ ih, next_reference_streamGenerator, Option.map_some]

theorem outputAfter_textbook (v : Word) (k : Nat) :
    outputAfter .textbook k (seededGenerator v) = some (streamWord v k) :=
  (outputAfter_of_afterPulls (afterPulls_textbook v k)).trans
    (congrArg (Option.map Prod.snd) (next_streamGenerator v k))

theorem outputAfter_reference (v : Word) (k : Nat) :
    outputAfter .reference k (seededGenerator v) = some (streamWord v (k + k / 623)) := by
  rw [outputAfter_of_afterPulls (afterPulls_reference v k), next_reference_streamGenerator, Option.map_some]

end Sys2Proof.Machine

namespace Sys2Proof.Proofs

open Sys2Proof Sys2Proof.Machine

/-- Settles O43: the variant's pulls are pulls of this hardware's stream, `k / 623` of its words being left out before
output `k`. -/
theorem referenceVariantSkipsLastWords : Obligations.ReferenceVariantSkipsLastWords := by
  refine fun v => ⟨fun k => ⟨?_, ?_⟩, afterPulls_reference v 624, afterPulls_textbook v 624⟩
  · rw [outputAfter_reference, outputAfter_textbook]
  · rw [outputAfter_textbook, Option.isSome_some]

end Sys2Proof.Proofs
end

section
/-! PROOFS. The command `STATUS` (43_status.md): its response carries the cursor as a number (R82). -/

namespace Sys2Proof.Machine

theorem cursorData_toNat (c : Cursor) : (cursorData c).toNat = c.toNat :=
  BitVec.toNat_setWidth_of_le (by decide)

end Sys2Proof.Machine

namespace Sys2Proof.Proofs

open Sys2Proof Sys2Proof.Machine

/-- Settles O12: `STATUS` leaves the generator and answers the cursor, and widening keeps the cursor's value. -/
theorem statusReturnsCursor : Obligations.StatusReturnsCursor := by
  intro d s
  obtain ⟨n, hexec⟩ := exec_of_execute (execute_status d s.gen)
  exact ⟨rfl, n, cursorData s.gen.idx, cursorData_toNat s.gen.idx, hexec⟩

end Sys2Proof.Proofs
end

section
/-! PROOFS. The error responses (60_exceptions.md): which status each command answers, and that an error writes
nothing. -/

namespace Sys2Proof.Machine

theorem next_some_idx_ne_unseeded {t : TwistThreshold} {g : Generator} {p : Generator × Word}
    (h : next t g = some p) : g.idx ≠ unseeded := by
  intro hu
  rw [next_of_unseeded hu] at h
  cases h

theorem mnemonic_ne_illegal_of_isExtraction {i : Instr} (h : isExtraction i = true) : i.mnemonic ≠ .ILLEGAL := by
  cases i with
  | seed _ => nofun
  | extract _ => nofun
  | extract8 _ => nofun
  | status _ => nofun
  | illegal _ _ => cases h

/-- The status of every response: each error has one cause, and a command that meets neither answers `OK` (R87, R88,
R90). -/
theorem execute_status_cases (i : Instr) (g : Generator) :
    (i.mnemonic = .ILLEGAL ∧ isExtraction i = false ∧ (execute i g).2.status = .illegalCommand) ∨
    (i.mnemonic ≠ .ILLEGAL ∧ (isExtraction i = true ∧ g.idx = unseeded) ∧ (execute i g).2.status = .invalidState) ∨
    (i.mnemonic ≠ .ILLEGAL ∧ ¬ (isExtraction i = true ∧ g.idx = unseeded) ∧ (execute i g).2.status = .ok) := by
  rcases execute_cases i g with ⟨v, rfl, -⟩ | ⟨hx, _, _, _, hn, _, he⟩ | ⟨hx, hu, he⟩ | ⟨d, rfl, -⟩ | ⟨op, d, rfl, -⟩
  · exact .inr (.inr ⟨nofun, nofun, rfl⟩)
  · exact .inr (.inr ⟨mnemonic_ne_illegal_of_isExtraction hx, fun h => next_some_idx_ne_unseeded hn h.2, by rw [he]⟩)
  · exact .inr (.inl ⟨mnemonic_ne_illegal_of_isExtraction hx, ⟨hx, hu⟩, by rw [he]⟩)
  · exact .inr (.inr ⟨nofun, nofun, rfl⟩)
  · exact .inl ⟨rfl, rfl, rfl⟩

theorem execute_status_eq_illegalCommand_iff (i : Instr) (g : Generator) :
    (execute i g).2.status = .illegalCommand ↔ i.mnemonic = .ILLEGAL := by
  rcases execute_status_cases i g with ⟨hi, -, hs⟩ | ⟨hi, -, hs⟩ | ⟨hi, -, hs⟩ <;> simp [hi, hs]

theorem execute_status_eq_invalidState_iff (i : Instr) (g : Generator) :
    (execute i g).2.status = .invalidState ↔ isExtraction i = true ∧ g.idx = unseeded := by
  rcases execute_status_cases i g with ⟨-, hx, hs⟩ | ⟨-, hx, hs⟩ | ⟨-, hx, hs⟩ <;> simp [hx, hs]

theorem execute_status_eq_ok_iff (i : Instr) (g : Generator) :
    (execute i g).2.status = .ok ↔ i.mnemonic ≠ .ILLEGAL ∧ ¬ (isExtraction i = true ∧ g.idx = unseeded) := by
  rcases execute_status_cases i g with ⟨hi, -, hs⟩ | ⟨-, hx, hs⟩ | ⟨hi, hx, hs⟩
  · simp [hi, hs]
  · simp [hx, hs]
  · rw [hs]
    exact iff_of_true rfl ⟨hi, hx⟩

end Sys2Proof.Machine

namespace Sys2Proof.Proofs

open Sys2Proof Sys2Proof.Machine

/-- Settles O8: `NEXT` fails in an unseeded core, and `INVALID_STATE` is the answer to no other cause. -/
theorem unseededExtractionFails : Obligations.UnseededExtractionFails := by
  refine ⟨rfl, fun d s hu => ?_, fun i s t r hexec hr => ?_⟩
  · have hnext : next hardwareThreshold s.gen = none := next_of_unseeded hu
    obtain ⟨n, hx⟩ := exec_of_execute (i := .extract d) (commandExtract_of_none hnext)
    obtain ⟨n', hx8⟩ := exec_of_execute (i := .extract8 d) (commandExtract8_of_none hnext)
    exact ⟨n, n', hx, hx8⟩
  · obtain ⟨rfl, -⟩ := exec_next hexec hr
    exact execute_status_eq_invalidState_iff i s.gen

/-- Settles O14: the generator after an error is the old one, and `exec` adds the response in flight. -/
theorem failingCommandWritesNoState : Obligations.FailingCommandWritesNoState := by
  intro i s t r hexec hr herror
  obtain ⟨rfl, n, rfl⟩ := exec_next hexec hr
  exact ⟨n, by rw [execute_gen_of_status_ne_ok herror]⟩

/-- Settles O16: the response is that of `execute`, whose status has one cause for each error. -/
theorem eachErrorHasItsOwnCause : Obligations.EachErrorHasItsOwnCause := fun i s =>
  ⟨_, (execute i s.gen).2, exec_eq_execute i s, rfl, execute_status_eq_illegalCommand_iff i s.gen,
    execute_status_eq_invalidState_iff i s.gen, execute_status_eq_ok_iff i s.gen⟩

end Sys2Proof.Proofs
end

section
/-! PROOFS. The port between the acceptance of a command and the delivery of its response (R99, R107 to R110). -/

namespace Sys2Proof.Machine

theorem State.accepts_eq_false_of_cmdValid {s : State} (h : s.pins.cmdValid = false) : s.accepts = false := by
  rw [State.accepts, h, Bool.and_false]

theorem State.waitEdge_of_idle {s : State} (h : s.phase = .idle) (p : PortIn) : s.waitEdge p = s := by
  rw [State.waitEdge, h, Phase.advance_idle, ← h]

/-- While a response is in flight, an edge with no reset moves the port on and accepts nothing (R107). -/
theorem State.edge_phase_of_response {s : State} {p : Phase} {r : Response} (hr : s.pins.rst = false)
    (h : s.phase = p) (hp : p.response? = some r) : s.edge.phase = p.advance s.pins.rspReady := by
  subst h
  rw [State.edge_of_waits hr (State.accepts_eq_false_of_response hp), State.waitEdge_phase, State.sampled_phase]

theorem State.takenNow_of_busy {s : State} {left : Nat} {r : Response} (h : s.phase = .busy left r) :
    s.takenNow = none := by
  rw [State.takenNow, State.presented, h, ite_self]

theorem State.takenNow_of_not_ready {s : State} (h : s.pins.rspReady = false) : s.takenNow = none := by
  rw [State.takenNow, h, if_neg Bool.false_ne_true]

theorem State.takenNow_of_presenting {s : State} {r : Response} (h : s.phase = .presenting r)
    (hr : s.pins.rst = false) (hready : s.pins.rspReady = true) : s.takenNow = some r := by
  rw [State.takenNow, State.presented, h, hr, hready]
  rfl

/-- Edge number `k`, counted from 0, is the first at which the host takes a response; it is `r`, and the core is idle
after it (R107, R108). -/
def State.DeliversAt (s : State) (r : Response) (k : Nat) : Prop :=
  s.taken k = [] ∧ s.taken (k + 1) = [r] ∧ (s.run (k + 1)).phase = .idle

theorem State.DeliversAt.of_edge {s : State} {r : Response} {k : Nat} (hnow : s.takenNow = none)
    (h : s.edge.DeliversAt r k) : s.DeliversAt r (k + 1) := by
  obtain ⟨hbefore, hat, hidle⟩ := h
  exact ⟨by rw [State.taken_succ, hnow, hbefore]; rfl, by rw [State.taken_succ, hnow, hat]; rfl, hidle⟩

/-- A host that is ready when a response is presented takes it at that edge (R108). -/
theorem State.deliversAt_zero {s : State} {r : Response} (h : s.phase = .presenting r)
    (hr : s.pins.rst = false) (hready : s.pins.rspReady = true) : s.DeliversAt r 0 := by
  refine ⟨rfl, ?_, ?_⟩
  · rw [State.taken_succ, State.takenNow_of_presenting h hr hready]
    rfl
  · rw [State.run_succ, State.run_zero, State.edge_phase_of_response hr h rfl, hready,
      Phase.advance_presenting_taken]

/-- A presented response is held until it is taken, at the latest at an edge at which the host is known to be ready
(R108, R109). -/
theorem State.exists_deliversAt_of_presenting {s : State} {r : Response} {n : Nat} (h : s.phase = .presenting r)
    (hreset : s.noReset (n + 1)) (hready : (s.run n).pins.rspReady = true) : ∃ k, k ≤ n ∧ s.DeliversAt r k := by
  induction n generalizing s with
  | zero => exact ⟨0, le_rfl, State.deliversAt_zero h (State.noReset_succ hreset).1 hready⟩
  | succ n ih =>
    obtain ⟨hr, htail⟩ := State.noReset_succ hreset
    cases hnow : s.pins.rspReady with
    | true => exact ⟨0, Nat.zero_le _, State.deliversAt_zero h hr hnow⟩
    | false =>
      have hheld : s.edge.phase = .presenting r := by
        rw [State.edge_phase_of_response hr h rfl, hnow, Phase.advance_presenting_held]
      obtain ⟨k, hk, hdelivers⟩ := ih hheld htail hready
      exact ⟨k + 1, Nat.succ_le_succ hk, hdelivers.of_edge (State.takenNow_of_not_ready hnow)⟩

/-- A response in flight comes one edge nearer at every edge, is then presented, and is taken by a host that is ready at
some edge from there on (R109, R110). -/
theorem State.exists_deliversAt_of_busy {s : State} {left n : Nat} {r : Response} (h : s.phase = .busy left r)
    (hn : left < n) (hreset : s.noReset (n + 1)) (hready : (s.run n).pins.rspReady = true) :
    ∃ k, left < k ∧ k ≤ n ∧ s.DeliversAt r k := by
  induction left generalizing s n with
  | zero =>
    obtain ⟨n, rfl⟩ := Nat.exists_eq_succ_of_ne_zero hn.ne'
    obtain ⟨hr, htail⟩ := State.noReset_succ hreset
    have hpresented : s.edge.phase = .presenting r := by
      rw [State.edge_phase_of_response hr h rfl, Phase.advance_busy_zero]
    obtain ⟨k, hk, hdelivers⟩ := State.exists_deliversAt_of_presenting hpresented htail hready
    exact ⟨k + 1, k.succ_pos, Nat.succ_le_succ hk, hdelivers.of_edge (State.takenNow_of_busy h)⟩
  | succ left ih =>
    obtain ⟨n, rfl⟩ := Nat.exists_eq_succ_of_ne_zero (Nat.ne_zero_of_lt hn)
    obtain ⟨hr, htail⟩ := State.noReset_succ hreset
    have hnearer : s.edge.phase = .busy left r := by
      rw [State.edge_phase_of_response hr h rfl, Phase.advance_busy_succ]
    obtain ⟨k, hleft, hk, hdelivers⟩ := ih hnearer (Nat.lt_of_succ_lt_succ hn) htail hready
    exact ⟨k + 1, Nat.succ_lt_succ hleft, Nat.succ_le_succ hk, hdelivers.of_edge (State.takenNow_of_busy h)⟩

end Sys2Proof.Machine

namespace Sys2Proof.Proofs

open Sys2Proof Sys2Proof.Machine

/-- Settles O26: an idle core that is shown no command stays idle, and the edge holds all else. -/
theorem idleCoreHoldsState : Obligations.IdleCoreHoldsState := by
  intro s hidle hr hvalid
  have hsampled : s.sampled.phase = .idle := hidle
  rw [step_of_waits hr (State.accepts_eq_false_of_cmdValid hvalid), State.waitEdge_of_idle hsampled, State.sampled]

/-- Settles O32: the latency runs out while no reset comes, and the response is then held until the host is ready. -/
theorem readyHostGetsTheResponse : Obligations.ReadyHostGetsTheResponse :=
  fun _ left _ _ h hreset hready => State.exists_deliversAt_of_busy h (by omega) hreset hready

end Sys2Proof.Proofs
end

section
/-! PROOFS. What the pins show and what an edge leaves: in reset, with no response in flight, and with one (R101,
R107, R108). -/

namespace Sys2Proof.Machine

theorem State.presented_of_reset {s : State} (h : s.pins.rst = true) : s.presented = none := by
  rw [State.presented]
  cases s.phase with
  | idle => rfl
  | busy _ _ => rfl
  | presenting _ => exact if_pos h

theorem State.presented_of_idle {s : State} (h : s.phase = .idle) : s.presented = none := by
  rw [State.presented, h]

theorem State.presented_of_busy {s : State} {left : Nat} {r : Response} (h : s.phase = .busy left r) :
    s.presented = none := by
  rw [State.presented, h]

theorem State.presented_of_presenting {s : State} {r : Response} (h : s.phase = .presenting r)
    (hr : s.pins.rst = false) : s.presented = some r := by
  rw [State.presented, h, hr]
  rfl

theorem State.outputs_rspData {s : State} {r : Response} (h : s.presented = some r) : s.outputs.rspData = r.data := by
  rw [State.outputs, h]

theorem State.takenNow_of_not_presented {s : State} (h : s.presented = none) : s.takenNow = none := by
  rw [State.takenNow, h, ite_self]

theorem State.cmdReady_of_reset {s : State} (h : s.pins.rst = true) : s.cmdReady = false := by
  rw [State.cmdReady, h, Bool.not_true, Bool.and_false]

theorem State.cmdReady_of_response {s : State} {r : Response} (h : s.phase.response? = some r) :
    s.cmdReady = false := by
  rw [State.cmdReady]
  cases hp : s.phase with
  | idle => rw [hp] at h; cases h
  | busy _ _ => rfl
  | presenting _ => rfl

theorem State.acceptedNow_of_not_cmdReady {s : State} (h : s.cmdReady = false) : s.acceptedNow = none :=
  State.acceptedNow_of_waits (by rw [State.accepts, h, Bool.false_and])

/-- The command that an edge accepts is the one on the pins (R106). -/
theorem State.acceptedNow_eq_some_iff {s : State} {i : Instr} :
    s.acceptedNow = some i ↔ s.accepts = true ∧ decode s.pins.word = i := by
  rw [State.acceptedNow, Option.ite_none_right_eq_some, Option.some.injEq]

/-- While a response is in flight, an edge with no reset holds the generator (log entry 9). -/
theorem State.edge_gen_of_response {s : State} {r : Response} (hr : s.pins.rst = false)
    (h : s.phase.response? = some r) : s.edge.gen = s.gen := by
  rw [State.edge_of_waits hr (State.accepts_eq_false_of_response h), State.waitEdge_gen, State.sampled_gen]

/-- At an edge with no reset the response in flight stays in flight, or it is taken and the core is idle (R107,
R108). -/
theorem State.response_held_or_taken {s : State} {r : Response} (hr : s.pins.rst = false)
    (h : s.phase.response? = some r) :
    (s.takenNow = none ∧ s.edge.phase.response? = some r) ∨ (s.takenNow = some r ∧ s.edge.phase = .idle) := by
  rw [State.edge_phase_of_response hr rfl h]
  cases hp : s.phase with
  | idle => rw [hp] at h; cases h
  | busy left r' =>
    refine .inl ⟨State.takenNow_of_busy hp, ?_⟩
    rw [← h, hp]
    cases left <;> rfl
  | presenting r' =>
    obtain rfl : r' = r := Option.some.inj (by rw [← h, hp]; rfl)
    cases hready : s.pins.rspReady with
    | true => exact .inr ⟨State.takenNow_of_presenting hp hr hready, rfl⟩
    | false => exact .inl ⟨State.takenNow_of_not_ready hready, rfl⟩

/-- A command takes no cursor to `UNSEEDED`: that is what a reset does (R25, R101). -/
theorem execute_idx_ne_unseeded (i : Instr) {g : Generator} (h : g.idx ≠ unseeded) :
    (execute i g).1.idx ≠ unseeded := by
  rcases execute_gen_cases i g with ⟨v, _, he⟩ | ⟨_, y, hn⟩ | he
  · rw [he]
    exact (by decide : seededIdx ≠ unseeded)
  · intro hu
    have hle := (next_some_idx hn).2
    rw [hu, unseeded_toNat] at hle
    omega
  · rwa [he]

/-- An edge that accepts nothing reads `rst` and `rsp_ready` of the pins, and no more (R106). -/
theorem step_congr_of_not_accepts {s t : State} (hsampled : s.sampled = t.sampled) (hrst : s.pins.rst = t.pins.rst)
    (hready : s.pins.rspReady = t.pins.rspReady) (hs : s.accepts = false) (ht : t.accepts = false) :
    step s = step t := by
  cases hr : s.pins.rst with
  | true => rw [step_of_reset hr, step_of_reset (hrst ▸ hr), hsampled]
  | false => rw [step_of_waits hr hs, step_of_waits (hrst ▸ hr) ht, hsampled, State.waitEdge, State.waitEdge, hready]

end Sys2Proof.Machine
end

section
/-! PROOFS. Runs of edges with a response in flight: its latency runs out, and it is held while the host does not take
it (R109, R110). -/

namespace Sys2Proof.Machine

theorem State.noReset.mono {s : State} {m n : Nat} (h : s.noReset n) (hmn : m ≤ n) : s.noReset m :=
  fun k hk => h k (hk.trans_le hmn)

/-- While its latency runs, a response comes one edge nearer at every edge, and the generator is held (R110, log
entry 9). -/
theorem State.run_of_busy {s : State} {left k : Nat} {r : Response} (h : s.phase = .busy (left + k) r)
    (hreset : s.noReset k) : (s.run k).phase = .busy left r ∧ (s.run k).gen = s.gen := by
  induction k generalizing s with
  | zero => exact ⟨h, rfl⟩
  | succ k ih =>
    obtain ⟨hr, htail⟩ := State.noReset_succ hreset
    have hnearer : s.edge.phase = .busy (left + k) r := by
      rw [State.edge_phase_of_response hr h rfl, ← Nat.add_assoc, Phase.advance_busy_succ]
    rw [← State.edge_gen_of_response hr (by rw [h]; rfl)]
    exact ih hnearer htail

/-- The edge after its latency presents the response (R110). -/
theorem State.run_succ_of_busy {s : State} {left : Nat} {r : Response} (h : s.phase = .busy left r)
    (hreset : s.noReset (left + 1)) :
    (s.run (left + 1)).phase = .presenting r ∧ (s.run (left + 1)).gen = s.gen := by
  obtain ⟨hphase, hgen⟩ := State.run_of_busy (left := 0) (by rwa [Nat.zero_add]) (hreset.mono left.le_succ)
  have hr := hreset left left.lt_succ_self
  rw [State.run_add, State.run_succ, State.run_zero, State.edge_phase_of_response hr hphase rfl,
    State.edge_gen_of_response hr (by rw [hphase]; rfl)]
  exact ⟨Phase.advance_busy_zero _ r, hgen⟩

/-- An edge at which the host neither resets the core nor takes the presented response leaves it presented (R108). -/
theorem State.edge_phase_of_held {s : State} {r : Response} (h : s.phase = .presenting r) (hr : s.pins.rst = false)
    (hready : s.pins.rspReady = false) : s.edge.phase = .presenting r := by
  rw [State.edge_phase_of_response hr h rfl, hready, Phase.advance_presenting_held]

end Sys2Proof.Machine

namespace Sys2Proof.Proofs

open Sys2Proof Sys2Proof.Machine

/-- Settles O2: a reset edge is written out, and no command and no other edge brings a cursor to 625. -/
theorem resetEdgeUnseedsAndAbandons : Obligations.ResetEdgeUnseedsAndAbandons := by
  refine ⟨fun s hr => ?_, fun s t h hs ht => ?_⟩
  · have hready := State.cmdReady_of_reset hr
    have hpresented := State.presented_of_reset hr
    refine ⟨⟨_, step_of_reset hr⟩, ?_, ?_, State.acceptedNow_of_not_cmdReady hready,
      State.takenNow_of_not_presented hpresented⟩
    · rw [State.outputs_cmdReady, hready]
    · rw [State.outputs_rspValid, hpresented, Option.isSome_none]
  · rcases step_gen_cases h with ⟨hr, _⟩ | ⟨i, _, he⟩ | he
    · exact hr
    · rw [he] at ht
      exact absurd ht (execute_idx_ne_unseeded i hs)
    · rw [he] at ht
      exact absurd ht hs

/-- Settles O24: an accepting edge is `exec` by the rule for it, and the others read only `rst` and `rsp_ready`. -/
theorem stepRunsTheAcceptedCommand : Obligations.StepRunsTheAcceptedCommand := by
  refine ⟨fun s _ hvalid hready => ?_, fun s p rest op data hinputs hnot => ?_⟩
  · rw [State.outputs_cmdReady] at hready
    exact step_of_accepts (by rw [State.accepts, hready, hvalid, Bool.and_true])
  · obtain ⟨gen, phase, inputs, freeIndex⟩ := s
    obtain rfl : inputs = p :: rest := hinputs
    have hwaits : State.accepts ⟨gen, phase, p :: rest, freeIndex⟩ = false := by
      refine Bool.eq_false_iff.2 fun ha => hnot ?_
      obtain ⟨-, hr, hvalid⟩ := (State.accepts_eq_true_iff _).1 ha
      rw [State.outputs_cmdReady]
      exact ⟨hr, hvalid, (Bool.and_eq_true_iff.1 ha).1⟩
    exact step_congr_of_not_accepts rfl rfl rfl hwaits hwaits

/-- Settles O27: a command is accepted by an idle core alone, and its response is then held or taken. -/
theorem oneCommandInFlight : Obligations.OneCommandInFlight := by
  refine ⟨fun s t i haccepted h => ?_, fun s t r hresponse hr h => ?_⟩
  · obtain rfl := State.edge_of_step h
    obtain ⟨ha, -⟩ := State.acceptedNow_eq_some_iff.1 haccepted
    obtain ⟨hidle, -, -⟩ := s.accepts_eq_true_iff.1 ha
    rw [hidle, State.edge_of_accepts ha]
    exact ⟨rfl, _, rfl⟩
  · obtain rfl := State.edge_of_step h
    have hready := State.cmdReady_of_response hresponse
    exact ⟨by rw [State.outputs_cmdReady, hready], State.acceptedNow_of_not_cmdReady hready,
      State.edge_gen_of_response hr hresponse, State.response_held_or_taken hr hresponse⟩

/-- Settles O28: the pins show the response, and whether `rsp_ready` is 1 decides between the two ways on. -/
theorem responseHeldUntilTaken : Obligations.ResponseHeldUntilTaken := by
  intro s r h hr
  have hpresented := State.presented_of_presenting h hr
  refine ⟨by rw [State.outputs_rspValid, hpresented, Option.isSome_some], State.outputs_rspStatus hpresented,
    State.outputs_rspData hpresented, s.edge, step_eq_next_edge s,
    State.edge_gen_of_response hr (by rw [h]; rfl), fun hready => ?_, fun hready => ?_⟩
  · exact ⟨State.takenNow_of_not_ready hready, State.edge_phase_of_held h hr hready⟩
  · have hidle : s.edge.phase = .idle := by
      rw [State.edge_phase_of_response hr h rfl, hready, Phase.advance_presenting_taken]
    refine ⟨State.takenNow_of_presenting h hr hready, hidle, ?_⟩
    rw [State.outputs_rspValid, State.presented_of_idle hidle, Option.isSome_none]

/-- Settles O30: the accepting edge leaves the effect done and the latency to run, and the edges after it only let it
run out. -/
theorem responseComesAfterItsLatency : Obligations.ResponseComesAfterItsLatency := by
  intro s t i haccepted h
  obtain ⟨ha, rfl⟩ := State.acceptedNow_eq_some_iff.1 haccepted
  obtain rfl := (State.edge_of_step h).symm.trans (State.edge_of_accepts ha)
  refine ⟨_, Nat.succ_pos _, rfl, fun hreset => ⟨fun k hk => ?_, State.run_succ_of_busy rfl hreset⟩⟩
  obtain ⟨left, hleft⟩ := Nat.exists_eq_add_of_le' (Nat.le_of_lt_succ hk)
  obtain ⟨hphase, hgen⟩ := State.run_of_busy (congrArg (Phase.busy · _) hleft) (hreset.mono hk.le)
  exact ⟨State.presented_of_busy hphase, hgen⟩

/-- Settles O31, by induction over the edges: each leaves the response presented and the generator held. -/
theorem untakenResponseBlocksThePort : Obligations.UntakenResponseBlocksThePort := by
  intro s r n h hreset hready
  induction n generalizing s with
  | zero => exact ⟨h, rfl, rfl, rfl⟩
  | succ n ih =>
    have hresponse : s.phase.response? = some r := by rw [h]; rfl
    obtain ⟨hr, htail⟩ := State.noReset_succ hreset
    have hnow : s.pins.rspReady = false := hready 0 n.succ_pos
    obtain ⟨hphase, hgen, haccepted, htaken⟩ := ih s.edge (State.edge_phase_of_held h hr hnow) htail
      fun k hk => hready (k + 1) (Nat.succ_lt_succ hk)
    refine ⟨hphase, hgen.trans (State.edge_gen_of_response hr hresponse), ?_, ?_⟩
    · rw [State.accepted_succ, haccepted,
        State.acceptedNow_of_waits (State.accepts_eq_false_of_response hresponse)]
      rfl
    · rw [State.taken_succ, htaken, State.takenNow_of_not_ready hnow]
      rfl

/-- Settles O42: both generators stand in the stream of `SEED v` at the same number of extractions. -/
theorem reseedingAndSkippingResumesTheStream : Obligations.ReseedingAndSkippingResumesTheStream := by
  intro v is g g' his
  have hskip : ∀ i ∈ List.replicate (is.countP isExtraction) (Instr.extract 0#32), isSeed i = false :=
    fun i hi => by rw [List.eq_of_mem_replicate hi]; rfl
  rw [executeAll_seed v his, executeAll_seed v hskip, List.countP_replicate,
    if_pos (show isExtraction (.extract 0#32) = true from rfl)]

end Sys2Proof.Proofs
end
